-- ==== Sys2Proof/Word.lean ====
section
/-! DEFINITION. The words of the links and the management port (spec/00_scope.md section 3, spec/10_the_request_links.md R170). -/

namespace Sys2Proof

/-- A byte of a line or of a management frame. -/
abbrev Byte := BitVec 8

/-- A 40-bit byte address (spec/00_scope.md 3.2). -/
abbrev Addr := BitVec 40

/-- The 64 bytes of a line; byte j is bits 8j to 8j+7, so a little-endian field is a range of bits. -/
abbrev Line := BitVec 512

/-- A byte mask: flag j selects byte j of the line (R170). -/
abbrev Mask := BitVec 64

/-- An upstream tag, 0 to 63 (R170). -/
abbrev UpTag := BitVec 6

/-- A downstream tag: 0 to 63 mirror the upstream tags, 64 to 127 are internal (R178). -/
abbrev DownTag := BitVec 7

/-- An epoch id (R121). -/
abbrev Epoch := BitVec 32

/-- The tag of a marker (R23). -/
abbrev MarkTag := BitVec 32

/-! Sequence numbers are natural numbers: T does not reach 2^64, so comparisons are of integers, without wrap (R7; log 17). -/

end Sys2Proof
end

