-- ==== Sys2Proof/Syntax.lean ====
section
/-! DEFINITION. The commands of the 2640: one constructor for each row of spec/opcode_table.json, and their operands. -/

namespace Sys2Proof

/-- Statuses of a response (R171). -/
inductive LinkStatus where
  | ok | memError | refused | ringFull | viewLost | aborted | malformed
  deriving DecidableEq, Repr

/-- What a request asks (R170): a WRITE carries 64 data bytes, a READ none. -/
inductive LinkOp where
  | read
  | write (data : Line)
  deriving DecidableEq, Repr

/-- A request the fabric presents on the upstream link (R170). -/
structure UpRequest where
  tag : UpTag
  op : LinkOp
  addr : Addr
  mask : Mask
  deriving DecidableEq, Repr

/-- A response from memory (R170). `data` is the read data of a READ answered OK and is not looked at otherwise. -/
structure MemResponse where
  tag : DownTag
  status : LinkStatus
  data : Line
  deriving DecidableEq, Repr

/-- The 17 argument bytes of SET_LAYOUT (R186). -/
structure LayoutArgs where
  ringBase : BitVec 40
  order : Byte
  controlLine : BitVec 40
  policy : Byte
  stallLimit : BitVec 16
  stride : BitVec 16
  highWater : Byte
  deriving DecidableEq, Repr

/-- The nine argument bytes of WRITE_REGION, which READ_REGION also returns (R51). -/
structure RegionArgs where
  index : Byte
  enabled : Byte
  mode : Byte
  order : Byte
  base : BitVec 40
  deriving DecidableEq, Repr

/-- What DOWNSTREAM_ISSUE carries, since the rules leave it to the link and to the memory controller: which of the equally old
requests is issued (R177; log 4), and whether the controller goes on giving ready after it (R176; log 3). -/
structure IssueArgs where
  pick : Nat
  ready : Bool
  deriving DecidableEq, Repr

/-- The commands, in the order of spec/opcode_table.json. -/
inductive Instr where
  | upstreamRequest (r : UpRequest)
  | upstreamResponseReady
  | downstreamIssue (a : IssueArgs)
  | forwardedResponse (r : MemResponse)
  | oldDataResponse (r : MemResponse)
  | recordWriteAck (r : MemResponse)
  | statusWriteResponse (r : MemResponse)
  | startControlReadResponse (r : MemResponse)
  | recoverControlReadResponse (r : MemResponse)
  | viewReaderResponse (r : MemResponse)
  | replayReadResponse (r : MemResponse)
  | restoringWriteAck (r : MemResponse)
  | scanReadResponse (r : MemResponse)
  | strayResponse (r : MemResponse)
  | markTimerExpiry
  | stallTimerExpiry
  | powerOnReset
  | frameEnd (dataBytes : Nat)
  | readId
  | readStatus
  | readEvent
  | readSegments
  | readRegion (index : Byte)
  | setLayout (a : LayoutArgs)
  | setAddressing (fold : BitVec 16) (view : Byte)
  | writeRegion (a : RegionArgs)
  | setTimer (tick : Byte) (compare : BitVec 16) (enable : Byte)
  | setEventMask (mask : BitVec 16)
  | start
  | commit
  | mark (tag : MarkTag)
  | rollback (kind : Byte) (seq : BitVec 64)
  | stop
  | recover
  | softReset
  | unknown (code : Byte)
  | openRecordAssign
  | quiesceEnd
  | replayStart
  | rollbackEnd
  | closingEnd
  | scanEnd
  | softResetEnd
  | rstnFalls
  | responseReadyWithheld
  deriving DecidableEq, Repr

end Sys2Proof
end

