-- ==== Sys2Proof/Decode.lean ====
section
/-! DEFINITION. No row of spec/opcode_table.json gives bits, so no word spells a command. Management frames do have
an encoding (spec/11_the_management_port.md R182, R183 and the code table of 11.2): they are read and written here. -/

namespace Sys2Proof

/-- The table gives no row any bits, so no word spells a command. -/
def decodeTableWord (_nbits _w : Nat) : Option Instr := none

/-- The number a list of bytes spells, least significant byte first (R182). -/
def fromBytes : List Byte → Nat
  | [] => 0
  | b :: bs => b.toNat + 256 * fromBytes bs

/-- The `n` low bytes of a number, least significant byte first (R182). -/
def toBytes : Nat → Nat → List Byte
  | 0, _ => []
  | n + 1, v => BitVec.ofNat 8 v :: toBytes n (v / 256)

/-- A little-endian field of the argument bytes. -/
def argField (args : List Byte) (offset bytes : Nat) : Nat := fromBytes ((args.drop offset).take bytes)

/-- Argument bytes of each known command code (table of 11.2); none for a byte that is no code. -/
def argCount (code : Byte) : Option Nat :=
  match code.toNat with
  | 0x01 => some 0 | 0x02 => some 0 | 0x03 => some 0 | 0x04 => some 0 | 0x05 => some 1
  | 0x10 => some 17 | 0x11 => some 3 | 0x12 => some 9 | 0x13 => some 4 | 0x14 => some 2
  | 0x20 => some 0 | 0x21 => some 0 | 0x22 => some 4 | 0x23 => some 9 | 0x24 => some 0 | 0x25 => some 0
  | 0x30 => some 0
  | _ => none

/-- The command a known code takes with its argument bytes (table of 11.2; R31, R35, R46, R51, R141, R185, R186, R192). -/
def commandOf (code : Byte) (args : List Byte) : Option Instr :=
  match code.toNat with
  | 0x01 => some .readId
  | 0x02 => some .readStatus
  | 0x03 => some .readEvent
  | 0x04 => some .readSegments
  | 0x05 => some (.readRegion (.ofNat 8 (argField args 0 1)))
  | 0x10 => some (.setLayout
      { ringBase := .ofNat 40 (argField args 0 5), order := .ofNat 8 (argField args 5 1)
        controlLine := .ofNat 40 (argField args 6 5), policy := .ofNat 8 (argField args 11 1)
        stallLimit := .ofNat 16 (argField args 12 2), stride := .ofNat 16 (argField args 14 2)
        highWater := .ofNat 8 (argField args 16 1) })
  | 0x11 => some (.setAddressing (.ofNat 16 (argField args 0 2)) (.ofNat 8 (argField args 2 1)))
  | 0x12 => some (.writeRegion
      { index := .ofNat 8 (argField args 0 1), enabled := .ofNat 8 (argField args 1 1)
        mode := .ofNat 8 (argField args 2 1), order := .ofNat 8 (argField args 3 1)
        base := .ofNat 40 (argField args 4 5) })
  | 0x13 => some (.setTimer (.ofNat 8 (argField args 0 1)) (.ofNat 16 (argField args 1 2)) (.ofNat 8 (argField args 3 1)))
  | 0x14 => some (.setEventMask (.ofNat 16 (argField args 0 2)))
  | 0x20 => some .start
  | 0x21 => some .commit
  | 0x22 => some (.mark (.ofNat 32 (argField args 0 4)))
  | 0x23 => some (.rollback (.ofNat 8 (argField args 0 1)) (.ofNat 64 (argField args 1 8)))
  | 0x24 => some .stop
  | 0x25 => some .recover
  | 0x30 => some .softReset
  | _ => none

/-- The command that a frame's SDI bytes take: none while argument bytes are missing (R183); a byte that is no code
is taken at once as UNKNOWN, and bytes after the last argument are ignored (R182, R183). -/
def frameCommand : List Byte → Option Instr
  | [] => none
  | code :: rest =>
    match argCount code with
    | none => some (.unknown code)
    | some n => if rest.length < n then none else commandOf code (rest.take n)

/-- A byte from eight SDI bits, most significant bit first (R182). -/
def byteOfBits (bits : List Bool) : Byte := .ofNat 8 (bits.foldl (fun n b => 2 * n + b.toNat) 0)

/-- The complete bytes among the SDI bits sampled at the rising edges of SCK since SEL fell (R182, R183). -/
def bytesOfBits : List Bool → List Byte
  | a :: b :: c :: d :: e :: f :: g :: h :: rest => byteOfBits [a, b, c, d, e, f, g, h] :: bytesOfBits rest
  | _ => []

/-- The command that the SDI bits of a frame take, and none before the edge that completes its last byte (R182, R183). -/
def sdiCommand (bits : List Bool) : Option Instr := frameCommand (bytesOfBits bits)

/-- The SDI bytes of a management command; none for an event of the links, the timers, the pins or the engine. -/
def frameBytes : Instr → Option (List Byte)
  | .readId => some [0x01]
  | .readStatus => some [0x02]
  | .readEvent => some [0x03]
  | .readSegments => some [0x04]
  | .readRegion i => some [0x05, i]
  | .setLayout a => some (0x10 :: (toBytes 5 a.ringBase.toNat ++ [a.order] ++ toBytes 5 a.controlLine.toNat ++ [a.policy]
      ++ toBytes 2 a.stallLimit.toNat ++ toBytes 2 a.stride.toNat ++ [a.highWater]))
  | .setAddressing f v => some (0x11 :: (toBytes 2 f.toNat ++ [v]))
  | .writeRegion a => some ([0x12, a.index, a.enabled, a.mode, a.order] ++ toBytes 5 a.base.toNat)
  | .setTimer t c e => some ([0x13, t] ++ toBytes 2 c.toNat ++ [e])
  | .setEventMask m => some (0x14 :: toBytes 2 m.toNat)
  | .start => some [0x20]
  | .commit => some [0x21]
  | .mark t => some (0x22 :: toBytes 4 t.toNat)
  | .rollback k q => some ([0x23, k] ++ toBytes 8 q.toNat)
  | .stop => some [0x24]
  | .recover => some [0x25]
  | .softReset => some [0x30]
  | .unknown c => some [c]
  | .upstreamRequest _ | .upstreamResponseReady | .downstreamIssue _ | .forwardedResponse _ | .oldDataResponse _
  | .recordWriteAck _ | .statusWriteResponse _ | .startControlReadResponse _ | .recoverControlReadResponse _
  | .viewReaderResponse _ | .replayReadResponse _ | .restoringWriteAck _ | .scanReadResponse _ | .strayResponse _
  | .markTimerExpiry | .stallTimerExpiry | .powerOnReset | .frameEnd _ | .openRecordAssign | .quiesceEnd | .replayStart
  | .rollbackEnd | .closingEnd | .scanEnd | .softResetEnd | .rstnFalls | .responseReadyWithheld => none

end Sys2Proof
end

