-- ==== Sys2Proof/Config.lean ====
section
/-! DEFINITION. What the implementation fixes, and the one free value (log 16). -/

namespace Sys2Proof.Config

/-- Entries of the hold queue (R62). -/
def holdPlaces : Nat := 16
/-- Journal slots (R71). -/
def journalSlots : Nat := 8
/-- Entries of the segment list (R23). -/
def segmentPlaces : Nat := 16
/-- Entries of the touch table (R38). -/
def touchPlaces : Nat := 8192
/-- Places of the view reader (R97). -/
def viewPlaces : Nat := 16
/-- Places of the replay unit (R146). -/
def replayPlaces : Nat := 8
/-- Places of the scan unit (R159). -/
def scanPlaces : Nat := 8
/-- Records of the event queue (R190). -/
def eventPlaces : Nat := 32
/-- Vendor code of READ_ID (R185). -/
def vendorCode : Nat := 0x5A
/-- Part code of READ_ID (R185). -/
def partCode : Nat := 0x2640
/-- Revision byte of READ_ID (R185). -/
def revision : Nat := 0x01

/-- FREE VALUE (log 16): the bytes a status write carries under clear mask flags. They have no effect (R170) and
the spec gives no value for them; the argument is the number of the event. -/
opaque carriedBytes : Nat → Line

end Sys2Proof.Config
end

