-- ==== Sys2Proof/Machine/State.lean ====
section
/-! DEFINITION. Every piece of state the spec gives the 2640, as plain data, its value after power-on reset, and the
reasons a step can stop. The blocks are those of spec/00_scope.md 1.3. -/

namespace Sys2Proof.Machine

/-! ## Names -/

/-- Engine states (spec/07_epoch_control.md 7.1). -/
inductive EngineState where
  | off | active | broken | rolling | opening | stalled | quiescing | closing | scanning | resetting
  deriving DecidableEq, Repr

/-- Broken causes (R137). -/
inductive Cause where
  | oldDataFault | recordFault | stallExpired | ringFullBreak | controlFault | rollbackFault | recoveredAfterStop
  deriving DecidableEq, Repr

/-- The pending action of a quiescing engine (R121). -/
inductive Action where
  | commit
  | stop
  | rollback (target : Nat)
  deriving DecidableEq, Repr

/-- The command that began an opening (R127). -/
inductive Opener where
  | start | commit
  deriving DecidableEq, Repr

/-- Record kinds (R3). -/
inductive RecordKind where
  | opening | change | mark
  deriving DecidableEq, Repr

/-- Sources of a record (R3, R4 note 2). `other` is a source byte above 6, which the device never writes but uses as read
(R6) when a valid record in memory holds one. -/
inductive Source where
  | none | start | commit | management | watch | timer | recover
  | other (code : Nat)
  deriving DecidableEq, Repr

/-- Modes of a region (R48). -/
inductive Mode where
  | pass | journaled | frozen
  deriving DecidableEq, Repr

/-- Ring-full policies (R19, R79). -/
inductive Policy where
  | stall | refuse | breakJournal
  deriving DecidableEq, Repr

/-- Tick periods of the mark timer (R34). -/
inductive TickPeriod where
  | us1 | us10 | us100 | ms1
  deriving DecidableEq, Repr

/-- Results of a management command (table of 11.2). -/
inductive MgmtResult where
  | accepted | busy | badState | badArg | badLayout | listFull | ringFull | badTarget | unknown
  deriving DecidableEq, Repr

/-- Event kinds (R189). -/
inductive EventKind where
  | ringHigh | ringFull | stallExpired | broken | saturated | markRefused | releaseClamped | releaseStale
  | watchMalformed | openDone | openFailed | rollbackDone | recoverDone | closed | tagReuse | resetDone
  deriving DecidableEq, Repr

/-- Phases of a scan (R159). -/
inductive ScanPhase where
  | seek | run
  deriving DecidableEq, Repr

/-! ## The journal -/

/-- The five items of R121, and the command that began the opening in progress (R127). -/
structure Engine where
  state : EngineState
  epoch : Epoch
  cause : Option Cause
  action : Option Action
  pendingTarget : Option Nat
  opener : Opener
  deriving DecidableEq, Repr

/-- The indices H, F and T (R9), the high-water armed flag (R17) and the ring-full reported flag (R83). -/
structure Ring where
  head : Nat
  frontier : Nat
  tail : Nat
  highArmed : Bool
  fullReported : Bool
  deriving DecidableEq, Repr

/-- An entry of the segment list (R23). -/
structure Segment where
  seq : Nat
  tag : MarkTag
  source : Source
  deriving DecidableEq, Repr

/-- An entry of the touch table (R38). -/
structure Touched where
  line : Addr
  seq : Nat
  deriving DecidableEq, Repr

/-- The touch table, in the order of insertion, and the saturated flag (R38). -/
structure Touch where
  entries : List Touched
  saturated : Bool
  deriving DecidableEq, Repr

/-- The header fields of R3, less the check. -/
structure Header where
  kind : RecordKind
  dup : Bool
  source : Source
  region : Nat
  epoch : Epoch
  seq : Nat
  line : Addr
  tag : MarkTag
  segmentStart : Nat
  deriving DecidableEq, Repr

/-- The old-data state of a journal slot (R71): OPEN and MARK need none; a read that came back without an image
(MEM_ERROR, or in an abandoned slot) is discarded. -/
inductive OldData where
  | notNeeded
  | reading
  | image (old : Line)
  | discarded
  deriving DecidableEq, Repr

/-- The state of a record write (R71). `acknowledged` says that its response has returned; a MEM_ERROR abandons the slot. -/
inductive WriteState where
  | notIssued | outstanding | acknowledged
  deriving DecidableEq, Repr

/-- An occupied journal slot (R71). Its seq and kind are those of the header. -/
structure Slot where
  header : Header
  oldData : OldData
  headerWrite : WriteState
  dataWrite : WriteState
  held : Option UpTag
  abandoned : Bool
  deriving DecidableEq, Repr

/-- The mark timer (R34), and the phase of its tick in µs (R35, R37). `startCounter` and `startPhase` are the counter and the
phase as they were when START was last accepted, to which a failed START returns them (R125; log 37). -/
structure MarkTimer where
  tick : TickPeriod
  compare : Nat
  enabled : Bool
  counter : Nat
  phase : Nat
  markCount : MarkTag
  startCounter : Nat
  startPhase : Nat
  deriving DecidableEq, Repr

/-! ## Configuration -/

/-- The layout settings (R19); order 0 is a layout that is not set. -/
structure Layout where
  ringBase : Addr
  order : Nat
  controlLine : Addr
  policy : Policy
  stallLimit : Nat
  stride : Nat
  highWater : Nat
  deriving DecidableEq, Repr

/-- The fold set, bit i standing for address bit 30 + i, and the view bit (R46). -/
structure Addressing where
  fold : BitVec 10
  viewBit : Option Nat
  deriving DecidableEq, Repr

/-- An entry of the region table (R48). -/
structure Region where
  enabled : Bool
  base : Addr
  order : Nat
  mode : Mode
  deriving DecidableEq, Repr

/-! ## The hold queue and the view reader -/

/-- The kinds of a held request (R61). -/
inductive HeldKind where
  | read
  | write (data : Line)
  | viewRead
  deriving DecidableEq, Repr

/-- A classified request. `watched` says that it was passed to the watch unit, when it was classified or at the last decision that
held it (R57, R59, R114). -/
structure Request where
  tag : UpTag
  kind : HeldKind
  line : Addr
  mask : Mask
  watched : Bool
  deriving DecidableEq, Repr

/-- What a held entry waits for (R61, R63). `place` and `issue` are the entries that hold no reason; `ready` marks,
inside one event only, an entry whose condition has cleared and that is to be decided in that event (R65, R66). -/
inductive Wait where
  | line
  | engine
  | slot
  | space
  | record (seq : Nat)
  | place
  | issue
  | ready
  deriving DecidableEq, Repr

/-- An entry of the hold queue (R61). -/
structure Entry where
  req : Request
  wait : Wait
  deriving DecidableEq, Repr

/-- The hold queue, oldest first (R62), and the waiting request (R64). -/
structure Hold where
  queue : List Entry
  waiting : Option Request
  deriving DecidableEq, Repr

/-- Where a view read is served from (R97). -/
inductive ViewSource where
  | slot (seq : Nat)
  | live
  deriving DecidableEq, Repr

/-- A taken place of the view reader (R97). -/
structure ViewPlace where
  tag : UpTag
  mask : Mask
  source : ViewSource
  internalTag : DownTag
  deriving DecidableEq, Repr

/-! ## The watch, replay and scan units -/

/-- The engine's waiting occasion (R108, R110): the write that satisfies it is still to be issued (`queued`), is in
flight, or has returned; `returned` holds inside one event only. -/
inductive Occasion where
  | idle | queued | inFlight | returned
  deriving DecidableEq, Repr

/-- The watch unit's items (R110). -/
structure Watch where
  outstanding : Bool
  updatePending : Bool
  occasion : Occasion
  deriving DecidableEq, Repr

/-- One of the two reads of a ring slot (R146, R159). -/
inductive ReadState where
  | outstanding
  | ok (data : Line)
  | error
  deriving DecidableEq, Repr

/-- A taken place of the replay unit (R146); `writing` from the hand-over of its restoring write. -/
structure ReplayPlace where
  seq : Nat
  header : ReadState
  data : ReadState
  writing : Bool
  deriving DecidableEq, Repr

/-- The replay unit in a rollback (R146); `begun` once the start write has returned OK (R147). -/
structure Replay where
  target : Nat
  cursor : Nat
  readCursor : Nat
  places : List ReplayPlace
  replayed : Nat
  faults : Nat
  begun : Bool
  deriving DecidableEq, Repr

/-- A taken place of the scan unit (R159). -/
structure ScanPlace where
  seq : Nat
  header : ReadState
  data : ReadState
  deriving DecidableEq, Repr

/-- The scan unit while SCANNING (R158, R159), with what R163 reports of dropped entries and of the record that found
the built table full. The stored state and cause are the codes read. -/
structure Scan where
  epoch : Epoch
  storedState : Nat
  storedCause : Nat
  storedTarget : Nat
  startSeq : Nat
  phase : ScanPhase
  cursor : Nat
  readCursor : Nat
  places : List ScanPlace
  runStart : Option Nat
  built : List Segment
  dropped : Nat
  newestDropped : Nat
  table : Touch
  fullAt : Nat
  stopped : Bool
  deriving DecidableEq, Repr

/-! ## The links -/

/-- A response on the upstream link (R170). -/
structure UpResponse where
  tag : UpTag
  status : LinkStatus
  data : Option Line
  deriving DecidableEq, Repr

/-- The upstream link interface (R172, R175, R176). The tag table is the list of the tags in use. `sent` is the
model's own record of the responses sent, oldest first (log 14). -/
structure UpLink where
  tags : List UpTag
  pendingForward : Option UpTag
  respReady : Bool
  respWaiting : List UpResponse
  sent : List UpResponse
  deriving DecidableEq, Repr

/-- The requester a downstream request was handed by (R177), and which of its requests it is. -/
inductive Owner where
  | forward
  | oldData (seq : Nat)
  | recordHeader (seq : Nat)
  | recordData (seq : Nat)
  | status
  | startRead
  | recoverRead
  | view
  | replayHeader (seq : Nat)
  | replayData (seq : Nat)
  | restore (seq : Nat)
  | scanHeader (seq : Nat)
  | scanData (seq : Nat)
  deriving DecidableEq, Repr

/-- A downstream request (R170, R177); `event` numbers the event that handed it. -/
structure DownRequest where
  tag : DownTag
  op : LinkOp
  addr : Addr
  mask : Mask
  owner : Owner
  event : Nat
  deriving DecidableEq, Repr

/-- The downstream link interface: requests waiting, in the order handed, and requests issued and not yet answered, in
the order issued. A downstream tag is in use exactly while a request of either list carries it (R177). `ready` is the memory
controller's ready as it stands between two commands (R177; log 3). -/
structure DownLink where
  toIssue : List DownRequest
  issued : List DownRequest
  ready : Bool
  deriving DecidableEq, Repr

/-! ## The management port -/

/-- An event record (R189). -/
structure EventRecord where
  kind : EventKind
  state : EngineState
  seq : Option Nat
  detail : Option Nat
  count : Option Nat
  deriving DecidableEq, Repr

/-- A frame whose command has been taken (R182): its result, its data, and whether its full clocking removes the
oldest event (R191). -/
structure Frame where
  result : MgmtResult
  data : List Byte
  removesEvent : Bool
  deriving DecidableEq, Repr

/-- The management port (R182, R190). -/
structure Port where
  frame : Option Frame
  events : List EventRecord
  overflow : Bool
  mask : BitVec 16
  deriving DecidableEq, Repr

/-! ## The machine -/

/-- The state of the device, and the queue of waiting commands. -/
structure State where
  eng : Engine
  ring : Ring
  segments : List Segment
  touch : Touch
  slots : List Slot
  stall : Option Nat
  timer : MarkTimer
  layout : Layout
  addressing : Addressing
  regions : Vector Region 16
  hold : Hold
  views : List ViewPlace
  watch : Watch
  replay : Option Replay
  scan : Option Scan
  aborted : Nat
  up : UpLink
  down : DownLink
  port : Port
  rstn : Bool
  eventNo : Nat
  pending : List Instr
  deriving DecidableEq, Repr

/-- The machine right after power-on reset (R16, R21, R28, R37, R42, R47, R52, R90, R105, R112, R121, R181, R192, R194). -/
def State.reset : State where
  eng := { state := .off, epoch := 0, cause := none, action := none, pendingTarget := none, opener := .start }
  ring := { head := 0, frontier := 0, tail := 0, highArmed := true, fullReported := false }
  segments := []
  touch := { entries := [], saturated := false }
  slots := []
  stall := none
  timer :=
    { tick := .ms1, compare := 65535, enabled := false, counter := 0, phase := 0, markCount := 0, startCounter := 0
      startPhase := 0 }
  layout := { ringBase := 0, order := 0, controlLine := 0, policy := .stall, stallLimit := 1000, stride := 64, highWater := 6 }
  addressing := { fold := 0, viewBit := none }
  regions := Vector.replicate 16 { enabled := false, base := 0, order := 12, mode := .pass }
  hold := { queue := [], waiting := none }
  views := []
  watch := { outstanding := false, updatePending := false, occasion := .idle }
  replay := none
  scan := none
  aborted := 0
  up := { tags := [], pendingForward := none, respReady := true, respWaiting := [], sent := [] }
  down := { toIssue := [], issued := [], ready := false }
  port := { frame := none, events := [], overflow := false, mask := 0xFFFF }
  rstn := true
  eventNo := 0
  pending := []

/-- The faults of a step. -/
inductive Fault where
  /-- Raised by every command that is a response from memory, when its tag is that of a request memory has not taken
  yet: R179 rules it out and gives the device no behaviour for it. SAFE: the model stops (log 6). -/
  | memoryContract
  deriving DecidableEq, Repr

/-- The refusals of a step. -/
inductive Refusal where
  /-- Raised by exec's arm for a command without a meaning; no arm does. SAFE. -/
  | notModelled (mnemonic : String)
  deriving DecidableEq, Repr

end Sys2Proof.Machine
end

