-- ==== Sys2Proof/Machine/Operands.lean ====
section
/-! DEFINITION. Operand forms: bytes and fields of a line, masks, codes, canonical addresses, regions, ring slots,
record headers and their check, and the data of the management commands. -/

namespace Sys2Proof.Machine

/-! ## Bytes of a line -/

/-- Byte j of a line. -/
def lineByte (l : Line) (j : Nat) : Byte := l.extractLsb' (8 * j) 8

/-- The little-endian field of `bytes` bytes at `offset`. -/
def lineField (l : Line) (offset bytes : Nat) : Nat := (l.extractLsb' (8 * offset) (8 * bytes)).toNat

/-- A line that holds `v` as the little-endian field of `bytes` bytes at `offset` and zero elsewhere. -/
def fieldLine (offset bytes v : Nat) : Line := (BitVec.ofNat 512 (v % 2 ^ (8 * bytes))) <<< (8 * offset)

/-- The bits of the bytes that the flags below `n` select. -/
def maskLineBelow (m : Mask) : Nat → Line
  | 0 => 0
  | n + 1 => maskLineBelow m n ||| (if m.getLsbD n then fieldLine n 1 0xFF else 0)

/-- The bits of the bytes a mask selects. -/
def maskLine (m : Mask) : Line := maskLineBelow m 64

/-- The bytes a mask selects, zero in the others (R99, R170). -/
def selected (m : Mask) (l : Line) : Line := l &&& maskLine m

/-- All 64 flags. -/
def fullMask : Mask := BitVec.allOnes 64

/-- The mask whose flags `first` to `first + n - 1` are set. -/
def maskRange (first n : Nat) : Mask := BitVec.ofNat 64 ((2 ^ n - 1) * 2 ^ first)

/-- The number of flags set among those below `n`. -/
def flagsBelow (m : Mask) : Nat → Nat
  | 0 => 0
  | n + 1 => flagsBelow m n + (m.getLsbD n).toNat

/-- The number of flags set (R113). -/
def flagCount (m : Mask) : Nat := flagsBelow m 64

/-! ## Codes -/

/-- Engine state codes (R184). -/
def EngineState.code : EngineState → Nat
  | .off => 0 | .active => 1 | .broken => 2 | .rolling => 3 | .opening => 4 | .stalled => 5 | .quiescing => 6
  | .closing => 7 | .scanning => 8 | .resetting => 9

/-- Link status codes (R184). -/
def linkStatusCode : LinkStatus → Nat
  | .ok => 0 | .memError => 1 | .refused => 2 | .ringFull => 3 | .viewLost => 4 | .aborted => 5 | .malformed => 6

/-- Broken cause codes (R137). -/
def Cause.code : Cause → Nat
  | .oldDataFault => 1 | .recordFault => 2 | .stallExpired => 3 | .ringFullBreak => 4 | .controlFault => 5
  | .rollbackFault => 6 | .recoveredAfterStop => 7

/-- The cause a code names; none for 0 and above 7 (R158). -/
def causeOfCode (n : Nat) : Option Cause :=
  match n with
  | 1 => some .oldDataFault | 2 => some .recordFault | 3 => some .stallExpired | 4 => some .ringFullBreak
  | 5 => some .controlFault | 6 => some .rollbackFault | 7 => some .recoveredAfterStop | _ => none

/-- Pending action codes (R184). -/
def actionCode : Option Action → Nat
  | none => 0 | some .commit => 1 | some .stop => 2 | some (.rollback _) => 3

/-- Record kind codes (R4 note 1). -/
def RecordKind.code : RecordKind → Nat
  | .opening => 1 | .change => 2 | .mark => 3

/-- The kind a code names (R6). -/
def recordKindOfCode (n : Nat) : Option RecordKind :=
  match n with
  | 1 => some .opening | 2 => some .change | 3 => some .mark | _ => none

/-- Source codes (R4 note 2). -/
def Source.code : Source → Nat
  | .none => 0 | .start => 1 | .commit => 2 | .management => 3 | .watch => 4 | .timer => 5 | .recover => 6
  | .other c => c

/-- The source a code names, as read (R6). -/
def sourceOfCode (n : Nat) : Source :=
  match n with
  | 1 => .start | 2 => .commit | 3 => .management | 4 => .watch | 5 => .timer | 6 => .recover
  | 0 => .none | c => .other c

/-- Mode codes (R51). -/
def Mode.code : Mode → Nat
  | .pass => 0 | .journaled => 1 | .frozen => 2

/-- The mode a code names (R51). -/
def modeOfCode (n : Nat) : Option Mode :=
  match n with
  | 0 => some .pass | 1 => some .journaled | 2 => some .frozen | _ => none

/-- The ring-full policy a code names (R184). -/
def policyOfCode (n : Nat) : Option Policy :=
  match n with
  | 0 => some .stall | 1 => some .refuse | 2 => some .breakJournal | _ => none

/-- The tick period a code names (R35). -/
def tickOfCode (n : Nat) : Option TickPeriod :=
  match n with
  | 0 => some .us1 | 1 => some .us10 | 2 => some .us100 | 3 => some .ms1 | _ => none

/-- A tick period in µs (R34). -/
def TickPeriod.micros : TickPeriod → Nat
  | .us1 => 1 | .us10 => 10 | .us100 => 100 | .ms1 => 1000

/-- Result codes (table of 11.2). -/
def MgmtResult.code : MgmtResult → Nat
  | .accepted => 0 | .busy => 1 | .badState => 2 | .badArg => 3 | .badLayout => 4 | .listFull => 5 | .ringFull => 6
  | .badTarget => 7 | .unknown => 8

/-- Event kind codes (R189). -/
def EventKind.code : EventKind → Nat
  | .ringHigh => 1 | .ringFull => 2 | .stallExpired => 3 | .broken => 4 | .saturated => 5 | .markRefused => 6
  | .releaseClamped => 7 | .releaseStale => 8 | .watchMalformed => 9 | .openDone => 10 | .openFailed => 11
  | .rollbackDone => 12 | .recoverDone => 13 | .closed => 14 | .tagReuse => 15 | .resetDone => 16

/-- The source an opening's OPEN record carries (R127). -/
def Opener.source : Opener → Source
  | .start => .start | .commit => .commit

/-! ## Addresses -/

/-- The address bits of the fold set (R46). -/
def Addressing.foldBits (a : Addressing) : Addr := a.fold.zeroExtend 40 <<< 30

/-- The address bit of the view bit, if one is configured (R46). -/
def Addressing.viewBits (a : Addressing) : Addr :=
  match a.viewBit with
  | some b => (1 : Addr) <<< b
  | none => 0

/-- The canonical address (R44). -/
def Addressing.canonical (a : Addressing) (x : Addr) : Addr := x &&& ~~~(a.foldBits ||| a.viewBits)

/-- The view flag of a request's address (R44). -/
def Addressing.viewFlag (a : Addressing) (x : Addr) : Bool := decide (x &&& a.viewBits ≠ 0)

/-- Whether an address has a fold-set bit or the view bit set (R20, R46, R51). -/
def Addressing.touches (a : Addressing) (x : Addr) : Bool := decide (x &&& (a.foldBits ||| a.viewBits) ≠ 0)

/-! ## The region table -/

/-- An entry contains an address of [base, base + 2^n) (R48). -/
def Region.contains (r : Region) (x : Addr) : Bool :=
  decide (r.base.toNat ≤ x.toNat) && decide (x.toNat < r.base.toNat + 2 ^ r.order)

/-- The first enabled entry of a list that contains the line, counted from `i`. -/
def governingFrom (x : Addr) : Nat → List Region → Option (Nat × Mode)
  | _, [] => none
  | i, r :: rs => if r.enabled && r.contains x then some (i, r.mode) else governingFrom x (i + 1) rs

/-- The index and mode of the governing entry of a line (R49). -/
def State.governing (s : State) (x : Addr) : Option (Nat × Mode) := governingFrom x 0 s.regions.toList

/-- The mode of a line (R49). -/
def State.mode (s : State) (x : Addr) : Mode :=
  match s.governing x with
  | some (_, m) => m
  | none => .pass

/-- The region index of a line (R49). -/
def State.regionIndex (s : State) (x : Addr) : Nat :=
  match s.governing x with
  | some (i, _) => i
  | none => 0

/-! ## The ring -/

/-- C, the ring capacity in records (1.1). -/
def Layout.capacity (l : Layout) : Nat := 2 ^ l.order

/-- The address of the header line of the record with seq q (R1). -/
def Layout.headerAddr (l : Layout) (q : Nat) : Addr := BitVec.ofNat 40 (l.ringBase.toNat + 128 * (q % l.capacity))

/-- The address of the data line of the record with seq q (R1). -/
def Layout.dataAddr (l : Layout) (q : Nat) : Addr := BitVec.ofNat 40 (l.ringBase.toNat + 128 * (q % l.capacity) + 64)

/-- Whether a line lies in the ring area (R55). -/
def Layout.inRing (l : Layout) (x : Addr) : Bool :=
  decide (l.ringBase.toNat ≤ x.toNat) && decide (x.toNat < l.ringBase.toNat + 128 * l.capacity)

/-- Occupancy (R11). -/
def State.occupancy (s : State) : Nat := s.ring.tail - s.ring.head

/-- Ring space exists (R11). -/
def State.hasSpace (s : State) : Bool := decide (s.occupancy < s.layout.capacity)

/-- A journal slot is free (R71). -/
def State.slotFree (s : State) : Bool := decide (s.slots.length < Config.journalSlots)

/-- L, the current segment start (R23); while the list is empty L has no value and 0 stands here. -/
def State.segmentStart (s : State) : Nat :=
  match s.segments.getLast? with
  | some e => e.seq
  | none => 0

/-- The seq under which a line is in the touch table (R39). -/
def Touch.lookup (t : Touch) (x : Addr) : Option Nat := (t.entries.find? fun e => e.line == x).map (·.seq)

/-- The touch table with no entries and the saturated flag clear (R42). -/
def Touch.empty : Touch := { entries := [], saturated := false }

/-- The update of R40 for a line that is absent from the table. -/
def Touch.insert (t : Touch) (x : Addr) (q : Nat) : Touch :=
  if t.saturated then t
  else if t.entries.length < Config.touchPlaces then { t with entries := t.entries ++ [{ line := x, seq := q }] }
  else { t with saturated := true }

/-- An insert now would set the saturated flag (R40). -/
def Touch.fills (t : Touch) : Bool := !t.saturated && decide (Config.touchPlaces ≤ t.entries.length)

/-! ## Records -/

/-- One shift of the check register (R5). -/
def crcShift (c : BitVec 32) : BitVec 32 := if c.getLsbD 0 then (c >>> 1) ^^^ 0xEDB88320#32 else c >>> 1

/-- The check register after one byte (R5). -/
def crcByte (c : BitVec 32) (b : Byte) : BitVec 32 :=
  let c := c ^^^ b.zeroExtend 32
  crcShift (crcShift (crcShift (crcShift (crcShift (crcShift (crcShift (crcShift c)))))))

/-- The CRC-32 of a list of bytes (R5). -/
def crc32 (bytes : List Byte) : BitVec 32 := ~~~(bytes.foldl crcByte 0xFFFFFFFF#32)

/-- The first `n` bytes of a line. -/
def lineBytes (l : Line) (n : Nat) : List Byte := (List.range n).map (lineByte l)

/-- The check of a record with the given kind code (R5): header bytes 0 to 59, and the data line of a CHANGE. -/
def recordCheck (kindCode : Nat) (header data : Line) : BitVec 32 :=
  crc32 (lineBytes header 60 ++ if kindCode = RecordKind.change.code then lineBytes data 64 else [])

/-- Header bytes 0 to 59 (R4). -/
def headerBody (h : Header) : Line :=
  fieldLine 0 1 h.kind.code ||| fieldLine 1 1 h.dup.toNat ||| fieldLine 2 1 h.source.code ||| fieldLine 3 1 h.region
  ||| fieldLine 4 4 h.epoch.toNat ||| fieldLine 8 8 h.seq ||| fieldLine 16 8 h.line.toNat ||| fieldLine 24 4 h.tag.toNat
  ||| fieldLine 28 8 h.segmentStart

/-- The header line of a record, with its check over the data line given (R4, R5). -/
def headerLine (h : Header) (data : Line) : Line :=
  headerBody h ||| fieldLine 60 4 (recordCheck h.kind.code (headerBody h) data).toNat

/-- The kind byte of a header as read. -/
def readKind (header : Line) : Nat := lineField header 0 1
/-- The source of a header as read. -/
def readSource (header : Line) : Source := sourceOfCode (lineField header 2 1)
/-- The epoch id of a header as read. -/
def readEpoch (header : Line) : Epoch := .ofNat 32 (lineField header 4 4)
/-- The seq of a header as read. -/
def readSeq (header : Line) : Nat := lineField header 8 8
/-- The line address of a header as read: the low five bytes of the field (R4 note 4). -/
def readLine (header : Line) : Addr := .ofNat 40 (lineField header 16 5)
/-- The tag of a header as read. -/
def readTag (header : Line) : MarkTag := .ofNat 32 (lineField header 24 4)
/-- The segment start seq of a header as read. -/
def readSegmentStart (header : Line) : Nat := lineField header 28 8

/-- The slot holds a record that is valid under R6 for some seq and the epoch e. -/
def recordIntact (header data : Line) (e : Epoch) : Bool :=
  (recordKindOfCode (readKind header)).isSome && decide (readEpoch header = e)
    && decide ((recordCheck (readKind header) header data).toNat = lineField header 60 4)

/-- The judgement of R6 for an expected seq and epoch. -/
def recordValid (header data : Line) (q : Nat) (e : Epoch) : Bool :=
  recordIntact header data e && decide (readSeq header = q)

/-! ## Slots and held requests -/

/-- Every write the record needs has been acknowledged OK (R12). An abandoned slot's record is never complete (R13). -/
def Slot.complete (j : Slot) : Bool :=
  !j.abandoned && decide (j.headerWrite = .acknowledged)
    && (decide (j.header.kind ≠ .change) || decide (j.dataWrite = .acknowledged))

/-- An internal request of the slot is outstanding (R86). -/
def Slot.busy (j : Slot) : Bool :=
  decide (j.oldData = .reading) || decide (j.headerWrite = .outstanding) || decide (j.dataWrite = .outstanding)

/-- The kinds of watched write (R113). -/
inductive WatchKind where
  | release | mark | malformed
  deriving DecidableEq, Repr

/-- The kind of a watched write, by its mask alone (R113). -/
def watchKind (m : Mask) : WatchKind :=
  if m = maskRange 0 16 then .release else if m = maskRange 16 8 then .mark else .malformed

/-- The bytes a held write carries. -/
def Request.data (r : Request) : Line :=
  match r.kind with
  | .write d => d
  | .read | .viewRead => 0

/-- The downstream operation of a forwarded request (R178). -/
def Request.op (r : Request) : LinkOp :=
  match r.kind with
  | .write d => .write d
  | .read | .viewRead => .read

/-! ## Data of the management commands -/

/-- READ_ID's data (R185). -/
def idBytes : List Byte := toBytes 1 Config.vendorCode ++ toBytes 2 Config.partCode ++ toBytes 1 Config.revision

/-- The nine bytes of a region entry (R51, R185). -/
def regionBytes (i : Nat) (r : Region) : List Byte :=
  toBytes 1 i ++ toBytes 1 r.enabled.toNat ++ toBytes 1 r.mode.code ++ toBytes 1 r.order ++ toBytes 5 r.base.toNat

/-- READ_SEGMENTS's data (R188). -/
def segmentBytes (l : List Segment) : List Byte :=
  toBytes 1 l.length ++ l.flatMap fun e => toBytes 8 e.seq ++ toBytes 4 e.tag.toNat ++ toBytes 1 e.source.code

/-- The target of a pending ROLLBACK, otherwise 0 (R187). -/
def actionTarget : Option Action → Nat
  | some (.rollback m) => m
  | _ => 0

/-- The view byte (R46). -/
def viewByte (a : Addressing) : Nat := a.viewBit.getD 0xFF

/-- The 56 bytes of the status snapshot (R187). -/
def snapshot (s : State) : List Byte :=
  toBytes 1 s.eng.state.code ++ toBytes 1 ((s.eng.cause.map Cause.code).getD 0)
  ++ toBytes 1 (s.touch.saturated.toNat + 2 * s.port.overflow.toNat + 4 * s.eng.pendingTarget.isSome.toNat)
  ++ toBytes 1 (actionCode s.eng.action) ++ toBytes 4 s.eng.epoch.toNat
  ++ toBytes 8 s.ring.head ++ toBytes 8 s.ring.frontier ++ toBytes 8 s.ring.tail
  ++ toBytes 8 (actionTarget s.eng.action) ++ toBytes 8 (s.eng.pendingTarget.getD 0)
  ++ toBytes 2 s.touch.entries.length ++ toBytes 1 s.hold.queue.length ++ toBytes 1 s.segments.length
  ++ toBytes 1 s.port.events.length ++ toBytes 2 s.addressing.fold.toNat ++ toBytes 1 (viewByte s.addressing)

/-- The fields-present byte of an event record (R189). -/
def EventRecord.fields (r : EventRecord) : Nat := r.seq.isSome.toNat + 2 * r.detail.isSome.toNat + 4 * r.count.isSome.toNat

/-- The 20 bytes of an event record with `behind` records behind it (R189). -/
def eventBytes (r : EventRecord) (behind : Nat) : List Byte :=
  toBytes 1 r.kind.code ++ toBytes 1 r.state.code ++ toBytes 1 r.fields ++ toBytes 1 behind
  ++ toBytes 8 (r.seq.getD 0) ++ toBytes 4 (r.detail.getD 0) ++ toBytes 4 (r.count.getD 0)

/-- The byte SDO carries in the n-th byte slot after the last argument byte: the result, the data, then zeros (R182). -/
def Frame.sdo (f : Frame) : Nat → Byte
  | 0 => .ofNat 8 f.result.code
  | n + 1 => f.data.getD n 0

/-- The bit SDO carries after a falling edge of SCK, counted from the command's taking: bytes most significant bit first (R182). -/
def Frame.sdoBit (f : Frame) (edge : Nat) : Bool := (f.sdo (edge / 8)).getLsbD (7 - edge % 8)

/-- SDO, none where it is high-impedance: while SEL is high and while RSTN is low. Until the command is taken it carries 0x00
(R182, R194), and with no frame in progress too, as when RSTN rises with SEL low (log 43). SEL and the count of falling edges are
the controller's (log 15). -/
def State.sdo (s : State) (selHigh : Bool) (edge : Nat) : Option Bool :=
  if selHigh || !s.rstn then none else some ((s.port.frame.map (Frame.sdoBit · edge)).getD false)

end Sys2Proof.Machine
end

