-- ==== Sys2Proof/Machine/Flags.lean ====
section
/-! DEFINITION. The flags: upstream ready and ALERT, the event queue with its overflow flag, and the high-water flag. -/

namespace Sys2Proof.Machine

/-- The interface gives ready to the fabric (R176). -/
def State.upReady (s : State) : Bool :=
  s.hold.waiting.isNone && s.up.pendingForward.isNone && decide (s.eng.state ≠ .resetting) && s.rstn

/-- ALERT is driven low (R190, R194). -/
def State.alertLow (s : State) : Bool := s.rstn && !s.port.events.isEmpty

/-- The mask enables a kind (R192). -/
def Port.enables (p : Port) (k : EventKind) : Bool := p.mask.getLsbD (k.code - 1)

/-- The port after an event (R190): appended, or dropped with the overflow flag set, or masked. -/
def Port.append (p : Port) (r : EventRecord) : Port :=
  { p with
    events := if p.enables r.kind && decide (p.events.length < Config.eventPlaces) then p.events ++ [r] else p.events
    overflow := p.overflow || (p.enables r.kind && decide (Config.eventPlaces ≤ p.events.length)) }

/-- An event is raised; it carries the engine state of the moment (R189, R190), whatever a later decision of the same event makes of
that state (log 40). -/
def State.raise (s : State) (kind : EventKind) (seq detail count : Option Nat) : State :=
  { s with port := s.port.append { kind := kind, state := s.eng.state, seq := seq, detail := detail, count := count } }

/-- The oldest record leaves the queue; the overflow flag clears with the last one (R190, R191). -/
def Port.pop (p : Port) : Port :=
  { p with events := p.events.tail, overflow := p.overflow && !p.events.tail.isEmpty }

/-- The high-water threshold (R17). -/
def Layout.threshold (l : Layout) : Nat := l.highWater * l.capacity / 8

/-- Occupancy is at or above the threshold (R17). -/
def State.isHigh (s : State) : Bool := decide (s.layout.threshold ≤ s.occupancy)

/-- The comparison made whenever occupancy changes (R17, R18). -/
def State.occupancyChanged (s : State) : State :=
  { s with
    ring := { s.ring with highArmed := !s.isHigh }
    port := if s.isHigh && s.ring.highArmed
      then s.port.append { kind := .ringHigh, state := s.eng.state, seq := some s.ring.tail, detail := some s.occupancy, count := none }
      else s.port }

/-- The high-water flag is armed if occupancy is below the threshold (R116, R152). -/
def State.armIfBelow (s : State) : State :=
  { s with ring := { s.ring with highArmed := s.ring.highArmed || !s.isHigh } }

end Sys2Proof.Machine
end

