-- ==== Sys2Proof/Machine/Ops.lean ====
section
/-! DEFINITION. The shared operations: answering upstream, handing requests downstream, the hold queue's bookkeeping, the
control-block status write, changes of engine state, the frontier, markers, and entry into BROKEN. A block has no
exception entry: raising an event, a status or a broken cause is the operation here. -/

namespace Sys2Proof.Machine

/-! ## Events of the machine -/

/-- The next event begins. -/
def State.nextEvent (s : State) : State := { s with eventNo := s.eventNo + 1 }

/-! ## The upstream link -/

/-- A response is sent while response ready is given and frees its tag; otherwise it waits at the interface (R172, R175). -/
def UpLink.answer (u : UpLink) (r : UpResponse) : UpLink :=
  { u with
    tags := if u.respReady then u.tags.erase r.tag else u.tags
    respWaiting := if u.respReady then u.respWaiting else u.respWaiting ++ [r]
    sent := if u.respReady then u.sent ++ [r] else u.sent }

/-- An upstream request is answered. -/
def State.answer (s : State) (tag : UpTag) (st : LinkStatus) (data : Option Line) : State :=
  { s with up := s.up.answer { tag := tag, status := st, data := data } }

/-! ## The downstream link -/

/-- Whether a downstream tag is in use (R177). -/
def DownLink.inUse (d : DownLink) (t : DownTag) : Bool :=
  d.toIssue.any (fun r => r.tag == t) || d.issued.any (fun r => r.tag == t)

/-- The internal tags, lowest first (R178). -/
def internalTags : List DownTag := (List.range 64).map fun i => BitVec.ofNat 7 (64 + i)

/-- The lowest-numbered free internal tag (R178). R97 bounds the tags in use by 49, so the fallback is never taken. -/
def DownLink.freeTag (d : DownLink) : DownTag := (internalTags.find? fun t => !d.inUse t).getD 127

/-- A request is issued in the event in which it is handed: memory is ready and no older request waits (R147, R149, R176, R177).
Handing and issuing at once leave this as it is, so it holds of every request of one event or of none. -/
def DownLink.takesAtOnce (d : DownLink) : Bool := d.ready && d.toIssue.isEmpty

/-- Requests are handed to the downstream link interface: memory takes them at once, in the order in which they are handed (log 3), or
they wait to be issued (R177). -/
def DownLink.hand (d : DownLink) (l : List DownRequest) : DownLink :=
  if d.takesAtOnce then { d with issued := d.issued ++ l } else { d with toIssue := d.toIssue ++ l }

/-- A request is handed to the downstream link interface under a given tag (R177). -/
def State.hand (s : State) (tag : DownTag) (op : LinkOp) (addr : Addr) (mask : Mask) (owner : Owner) : State :=
  { s with down := s.down.hand [{ tag := tag, op := op, addr := addr, mask := mask, owner := owner, event := s.eventNo }] }

/-- One of the device's own requests is handed, under the lowest free internal tag (R178). Requests handed in one event take their
tags in the order in which the model hands them (log 44). -/
def State.handOwn (s : State) (op : LinkOp) (addr : Addr) (mask : Mask) (owner : Owner) : State :=
  s.hand s.down.freeTag op addr mask owner

/-- The downstream request that forwards a request: its upstream tag, its kind, its canonical line, its own mask and data (R178). -/
def State.forwardOf (s : State) (r : Request) : DownRequest :=
  { tag := r.tag.zeroExtend 7, op := r.op, addr := r.line, mask := r.mask, owner := .forward, event := s.eventNo }

/-- A forwarded request is handed (R177). What follows from its issue is for the one who hands it. -/
def State.handForward (s : State) (r : Request) : State := { s with down := s.down.hand [s.forwardOf r] }

/-- One requester's own rule orders two of its requests handed in one event: the reads of replay and scan, by seq (R147, R160, R177). -/
def Owner.seqOrdered : Owner → Owner → Bool
  | .replayHeader p, .replayHeader q | .replayHeader p, .replayData q => decide (p ≠ q)
  | .replayData p, .replayHeader q | .replayData p, .replayData q => decide (p ≠ q)
  | .scanHeader p, .scanHeader q | .scanHeader p, .scanData q => decide (p ≠ q)
  | .scanData p, .scanHeader q | .scanData p, .scanData q => decide (p ≠ q)
  | _, _ => false

/-- Two requests handed in one event keep their order because they name one line. A status write and a forwarded request for the
control-block line need none (R119, R177). -/
def DownRequest.sameLine (a b : DownRequest) : Bool :=
  decide (a.addr = b.addr) && !decide (a.owner = .status) && !decide (b.owner = .status)

/-- An older waiting request must be issued before a newer one: it was handed in an earlier event, or names the same
line, or its requester's rule orders the two (R177). -/
def DownRequest.before (a b : DownRequest) : Bool :=
  decide (a.event ≠ b.event) || a.sameLine b || a.owner.seqOrdered b.owner

/-- A request of the device itself, with a tag from 64 up, is waiting or issued (R193). -/
def DownLink.internalBusy (d : DownLink) : Bool :=
  d.toIssue.any (fun r => decide (64 ≤ r.tag.toNat)) || d.issued.any (fun r => decide (64 ≤ r.tag.toNat))

/-! ## The hold queue's bookkeeping -/

/-- Entries that wait for what `p` names become decidable (R65, R88). -/
def wakeEntries (p : Wait → Bool) (q : List Entry) : List Entry :=
  q.map fun e => if p e.wait then { e with wait := .ready } else e

/-- Entries that wait for what `p` names become decidable (R65, R88). -/
def State.wake (s : State) (p : Wait → Bool) : State :=
  { s with hold := { s.hold with queue := wakeEntries p s.hold.queue } }

/-- ENGINE, SLOT and SPACE: the reasons that entry into ACTIVE or OFF clears (R88). -/
def Wait.clearedByEngine : Wait → Bool
  | .engine | .slot | .space => true
  | .line | .record _ | .place | .issue | .ready => false

/-- RECORD, SLOT, SPACE and ENGINE: the reasons that entry into BROKEN clears (R85, R88). -/
def Wait.clearedByBroken : Wait → Bool
  | .engine | .slot | .space | .record _ => true
  | .line | .place | .issue | .ready => false

/-- The entry that is being decided is given what it waits for, keeping its place (R62). -/
def State.setWait (s : State) (tag : UpTag) (w : Wait) : State :=
  { s with hold := { s.hold with
      queue := s.hold.queue.map fun e => if e.req.tag = tag ∧ e.wait = .ready then { e with wait := w } else e } }

/-- The entry that is being decided is held, and it is noted whether the decision passed it to the watch unit (R59, R62). -/
def State.setHeld (s : State) (tag : UpTag) (w : Wait) (watched : Bool) : State :=
  { s with hold := { s.hold with
      queue := s.hold.queue.map fun e =>
        if e.req.tag = tag ∧ e.wait = .ready then { req := { e.req with watched := watched }, wait := w } else e } }

/-- The oldest entry for a line becomes decidable if it waited with reason LINE (R65). -/
def wakeLine (line : Addr) : List Entry → List Entry
  | [] => []
  | e :: es =>
    if e.req.line = line then (if e.wait = .line then { e with wait := .ready } else e) :: es
    else e :: wakeLine line es

/-- An entry leaves the queue, and the next entry for its line becomes decidable (R65, R67). -/
def State.leave (s : State) (r : Request) : State :=
  { s with hold := { s.hold with queue := wakeLine r.line (s.hold.queue.filter fun e => e.req.tag ≠ r.tag) } }

/-- A request is entered at the end of the queue, or becomes the waiting request when the queue is full (R62, R64). -/
def State.enter (s : State) (r : Request) (w : Wait) : State :=
  { s with hold :=
      if s.hold.queue.length < Config.holdPlaces then { s.hold with queue := s.hold.queue ++ [{ req := r, wait := w }] }
      else { s.hold with waiting := some r } }

/-- SLOT entries become decidable when a slot is freed in ACTIVE or STALLED (R65). -/
def State.slotFreed (s : State) : State :=
  if s.eng.state = .active ∨ s.eng.state = .stalled then s.wake (fun w => decide (w = .slot)) else s

/-! ## The device's status write -/

/-- State code, broken cause code and rollback target seq of the status (R107). -/
def State.statusCodes (s : State) : Nat × Nat × Nat :=
  if s.eng.state = .closing then (0, 0, 0)
  else if s.eng.state = .opening then (1, 0, 0)
  else match s.eng.cause with
    | some c => (2, c.code, 0)
    | none =>
      if s.eng.state = .rolling then (3, 0, (s.replay.map Replay.target).getD 0)
      else match s.eng.pendingTarget with
        | some m => (3, 0, m)
        | none => (1, 0, 0)

/-- Bytes 24 to 47 (R106 note 2). -/
def statusMask : Mask := maskRange 24 24

/-- The status value in bytes 24 to 47 (R106, R107). -/
def State.statusValue (s : State) : Line :=
  fieldLine 24 8 s.ring.frontier ||| fieldLine 32 4 s.eng.epoch.toNat ||| fieldLine 36 1 s.statusCodes.1
  ||| fieldLine 37 1 s.statusCodes.2.1 ||| fieldLine 40 8 s.statusCodes.2.2

/-- The 64 bytes a status write carries: the status, and free bytes under the clear flags (R110, R170; log 16). -/
def State.statusLine (s : State) : Line :=
  selected statusMask s.statusValue ||| selected (~~~statusMask) (Config.carriedBytes s.eventNo)

/-- A status write is composed and handed, and the write outstanding flag set (R110). -/
def State.issueStatus (s : State) : State :=
  { s.handOwn (.write s.statusLine) s.layout.controlLine statusMask .status with
    watch := { s.watch with outstanding := true } }

/-- An occasion requests a status write; a waiting occasion is one the engine waits at (R108, R110). -/
def State.requestStatus (s : State) (waits : Bool) : State :=
  if s.watch.outstanding then
    { s with watch := { s.watch with updatePending := true, occasion := if waits then .queued else s.watch.occasion } }
  else
    let t := s.issueStatus
    { t with watch := { t.watch with occasion := if waits then .inFlight else t.watch.occasion } }

/-! ## Changes of engine state -/

/-- The engine state changes and nothing else. -/
def State.setEngine (s : State) (e : EngineState) : State := { s with eng := { s.eng with state := e } }

/-- Entry into ACTIVE, offered to the hold queue (R88). -/
def State.enterActive (s : State) : State := (s.setEngine .active).wake Wait.clearedByEngine

/-- Entry into OFF: the epoch id becomes 0 and the change is offered to the hold queue (R88, R123). -/
def State.enterOff (s : State) : State :=
  State.wake { s with eng := { s.eng with state := .off, epoch := 0 } } Wait.clearedByEngine

/-- The journal of an engine in OFF: the indices are 0, and the segment list and the touch table are empty (R16, R28, R42). -/
def State.emptyJournal (s : State) : State :=
  { s with ring := { s.ring with head := 0, frontier := 0, tail := 0 }, segments := [], touch := Touch.empty }

/-- Every occupied slot is abandoned and loses its held entry; those with no request outstanding are freed (R86). -/
def abandonSlots (l : List Slot) : List Slot :=
  (l.filter Slot.busy).map fun j => { j with abandoned := true, held := none }

/-- What R86 does to the journal when a cause is recorded: the slots, the stall timer, the touch table. -/
def State.breakJournal (s : State) (c : Cause) : State :=
  { s with
    eng := { s.eng with cause := some (s.eng.cause.getD c) }
    slots := abandonSlots s.slots
    stall := none
    touch := Touch.empty }

/-- The BROKEN event, with F, a cause code and T - F (R86, R111). -/
def State.raiseBroken (s : State) (c : Cause) : State :=
  s.raise .broken (some s.ring.frontier) (some c.code) (some (s.ring.tail - s.ring.frontier))

/-- Entry into BROKEN (R85, R86): the held entries it clears are decided in the same event. -/
def State.enterBroken (s : State) (c : Cause) : State :=
  ((((s.breakJournal c).setEngine .broken).raiseBroken c).requestStatus false).wake Wait.clearedByBroken

/-! ## Assigning records -/

/-- A record is assigned seq T: it takes a journal slot and T rises by one (R7, R11, R71). -/
def State.assign (s : State) (j : Slot) : State :=
  State.occupancyChanged { s with slots := s.slots ++ [j], ring := { s.ring with tail := s.ring.tail + 1 } }

/-- The slot of an OPEN or MARK record, whose header write is issued at once (R22, R71). -/
def headerSlot (h : Header) : Slot :=
  { header := h, oldData := .notNeeded, headerWrite := .outstanding, dataWrite := .notIssued, held := none, abandoned := false }

/-- The header write of an OPEN or MARK record (R22): its check covers no data line (R5). -/
def State.handHeader (s : State) (h : Header) : State :=
  s.handOwn (.write (headerLine h 0)) (s.layout.headerAddr h.seq) fullMask (.recordHeader h.seq)

/-- The header of a marker that is assigned now (R3). -/
def State.markHeader (s : State) (src : Source) (tag : MarkTag) : Header :=
  { kind := .mark, dup := false, source := src, region := 0, epoch := s.eng.epoch, seq := s.ring.tail, line := 0
    tag := tag, segmentStart := s.ring.tail }

/-- Why a marker is refused, tested in the order of R30; none when R29 accepts it. -/
def State.markRefusal (s : State) : Option MgmtResult :=
  if s.eng.state ≠ .active then some .badState
  else if Config.segmentPlaces ≤ s.segments.length then some .listFull
  else if !s.slotFree then some .busy
  else if !s.hasSpace then some .ringFull
  else none

/-- Acceptance of a marker, in one event (R29). -/
def State.acceptMark (s : State) (src : Source) (tag : MarkTag) : State :=
  let h := s.markHeader src tag
  let a := s.assign (headerSlot h)
  State.handHeader { a with segments := a.segments ++ [{ seq := h.seq, tag := tag, source := src }], touch := Touch.empty } h

/-- The MARK_REFUSED event of a WATCH, TIMER or RECOVER request (R30). -/
def State.raiseMarkRefused (s : State) (src : Source) (tag : MarkTag) (why : MgmtResult) : State :=
  s.raise .markRefused none (some tag.toNat) (some (src.code + 256 * why.code))

/-- A WATCH or TIMER marker request (R29, R30). -/
def State.requestMark (s : State) (src : Source) (tag : MarkTag) : State :=
  match s.markRefusal with
  | none => s.acceptMark src tag
  | some why => s.raiseMarkRefused src tag why

/-! ## The frontier -/

/-- The lowest seq from `f` on, up to `n` above it, whose record is not complete (R13). -/
def frontierFrom (l : List Slot) : Nat → Nat → Nat
  | 0, f => f
  | n + 1, f => if l.any (fun j => decide (j.header.seq = f) && j.complete) then frontierFrom l n (f + 1) else f

/-- Where F moves to (R13). -/
def State.newFrontier (s : State) : Nat := frontierFrom s.slots (s.ring.tail - s.ring.frontier) s.ring.frontier

/-- An entry is held RECORD for a record that F, now at f, has passed (R74). -/
def Entry.passedBy (e : Entry) (f : Nat) : Bool :=
  match e.wait with
  | .record q => decide (q < f)
  | .line | .engine | .slot | .space | .place | .issue | .ready => false

/-- An entry is held RECORD. -/
def Entry.heldRecord (e : Entry) : Bool :=
  match e.wait with
  | .record _ => true
  | .line | .engine | .slot | .space | .place | .issue | .ready => false

/-- Slots are freed but for those `p` keeps; a freed slot makes SLOT entries decidable (R65, R71). -/
def State.keepSlots (s : State) (p : Slot → Bool) : State :=
  let t := { s with slots := s.slots.filter p }
  if t.slots.length < s.slots.length then t.slotFreed else t

/-- A queued request has been issued: its entry leaves the hold queue, and the journal slot that protected its write, whose seq F has
passed, is freed (R67, R71, R74). -/
def State.entryIssued (s : State) (r : Request) : State :=
  (s.leave r).keepSlots fun j => decide (j.held ≠ some r.tag) || decide (s.ring.frontier ≤ j.header.seq)

/-- Held entries are forwarded without a decision, in queue order: handed downstream, their reason cleared, and issued in this event
when memory takes them at once (R67, R74, R87, R177). -/
def State.forwardHeld (s : State) (p : Entry → Bool) : State :=
  let l := s.hold.queue.filter p
  let t := l.foldl (fun t e => t.handForward e.req) s
  let u := { t with hold := { t.hold with queue := t.hold.queue.map fun e => if p e then { e with wait := .issue } else e } }
  if s.down.takesAtOnce then l.foldl (fun u e => u.entryIssued e.req) u else u

/-- The opening completes: ACTIVE and OPEN_DONE (R128). -/
def State.openingDone (s : State) : State :=
  let a := s.enterActive
  a.raise .openDone (some 0) (some a.eng.epoch.toNat) (some a.eng.opener.source.code)

/-- The slot stays occupied when F has moved to `f`: a CHANGE slot waits for its held write (R14, R71). -/
def Slot.staysAt (f : Nat) (j : Slot) : Bool := decide (j.header.kind = .change) || decide (f ≤ j.header.seq)

/-- F, moved to `f`, passes the OPEN record of an opening (R128). -/
def State.opensAt (s : State) (f : Nat) : Bool :=
  decide (s.eng.state = .opening) && s.slots.any fun j => decide (j.header.kind = .opening) && decide (j.header.seq < f)

/-- F moves to `f`: held writes are released, OPEN and MARK slots freed, the stride tested, an opening completed (R14, R109, R128). -/
def State.moveFrontier (s : State) (f : Nat) : State :=
  let a := State.forwardHeld { s with ring := { s.ring with frontier := f } } (Entry.passedBy · f)
  let b := a.keepSlots (Slot.staysAt f)
  let c := if s.opensAt f then b.openingDone else b
  if s.ring.frontier / s.layout.stride < f / s.layout.stride then c.requestStatus false else c

/-- F advances over every consecutive complete record (R13). -/
def State.advanceFrontier (s : State) : State :=
  if s.newFrontier = s.ring.frontier then s else s.moveFrontier s.newFrontier

/-! ## Journal slots and faults -/

/-- The slot of a record. -/
def State.slotOf (s : State) (q : Nat) : Option Slot := s.slots.find? fun j => j.header.seq = q

/-- The slot of a record is changed. -/
def State.setSlot (s : State) (q : Nat) (f : Slot → Slot) : State :=
  { s with slots := s.slots.map fun j => if j.header.seq = q then f j else j }

/-- An abandoned slot is freed once no request of it is outstanding (R71, R86). -/
def State.freeAbandoned (s : State) : State := s.keepSlots fun j => !j.abandoned || j.busy

/-- ROLLBACK_DONE at an abandonment (R133, R145): result 2. -/
def State.raiseAbandoned (s : State) (m : Nat) : State :=
  s.raise .rollbackDone (some m) (some 0) (some 2)

/-- A fault that records a cause while the engine is QUIESCING (R87, R133). With COMMIT or STOP pending the BROKEN event carries
QUIESCING, also where the abandonment frees the last slots and this event ends quiescing (log 41). -/
def State.quiesceFault (s : State) (c : Cause) : State :=
  match s.eng.action with
  | some (.rollback m) => (State.enterBroken { s with eng := { s.eng with action := none } } c).raiseAbandoned m
  | some .commit | some .stop | none =>
    (((s.breakJournal c).forwardHeld Entry.heldRecord).raiseBroken c).requestStatus false

/-- A fault on journal traffic of a slot that is not abandoned (R76, R77, R78, R87). -/
def State.journalFault (s : State) (c : Cause) : State :=
  if s.eng.state = .broken ∨ s.eng.state = .resetting then s
  else if s.eng.state = .quiescing then (if s.eng.cause.isSome then s else s.quiesceFault c)
  else s.enterBroken c

end Sys2Proof.Machine
end

