-- ==== Sys2Proof/Machine/Hold.lean ====
section
/-! DEFINITION. The decision of a request (chapters 3 to 6): what settles it, what it does, and the loop that decides
every entry one event makes decidable. -/

namespace Sys2Proof.Machine

/-! ## Watched writes -/

/-- The limit of a release: the smaller of L and F (R116). -/
def State.releaseLimit (s : State) : Nat := min s.segmentStart s.ring.frontier

/-- H rises to `h` (R26, R81, R83, R116). -/
def State.raiseHead (s : State) (h : Nat) : State :=
  let t := State.armIfBelow { s with
    ring := { s.ring with head := h, fullReported := false }
    segments := s.segments.filter fun e => decide (h ≤ e.seq) }
  if t.eng.state = .stalled ∧ t.hasSpace then State.enterActive { t with stall := none } else t

/-- The release action with value v and epoch e (R116). In OFF there is no action and the release is stale (R114). RELEASE_CLAMPED
carries the state that the release leaves, before held entries are decided again (log 40). -/
def State.release (s : State) (v : Nat) (e : Epoch) : State :=
  if s.eng.state = .off ∨ e ≠ s.eng.epoch then s.raise .releaseStale (some v) (some e.toNat) none
  else if v ≤ s.ring.head then s
  else if v ≤ s.releaseLimit then s.raiseHead v
  else
    let t := if s.ring.head < s.releaseLimit then s.raiseHead s.releaseLimit else s
    t.raise .releaseClamped (some v) none none

/-- The action of a watched write, taken in the event of its decision (R113, R114, R116, R118). -/
def State.watchAction (s : State) (r : Request) : State :=
  match watchKind r.mask with
  | .release => s.release (lineField r.data 0 8) (.ofNat 32 (lineField r.data 8 4))
  | .mark => s.requestMark .watch (.ofNat 32 (lineField r.data 16 4))
  | .malformed =>
    if s.eng.state = .off then s
    else s.raise .watchMalformed none (some r.tag.toNat) (some (flagCount r.mask))

/-! ## The decision -/

/-- What a decision settles. -/
inductive Verdict where
  | forward
  | answer (st : LinkStatus)
  | hold (w : Wait)
  | journal
  | stallRing
  | refuseFull
  | breakFull
  | watch
  | view (src : ViewSource)
  deriving DecidableEq, Repr

/-- A watched write is one the watch unit has: by its line while the engine is out of OFF, and in OFF one that was
passed to it before the engine entered OFF (R57, R59, R114). -/
def State.isWatched (s : State) (r : Request) : Bool :=
  if s.eng.state = .off then r.watched else decide (r.line = s.layout.controlLine)

/-- The decision of a watched write (R114). -/
def State.watchVerdict (s : State) (r : Request) : Verdict :=
  match s.eng.state with
  | .active | .stalled | .broken | .off => .watch
  | .opening | .quiescing | .rolling | .closing | .scanning =>
    if watchKind r.mask = .malformed then .watch else .hold .engine
  | .resetting => .answer .aborted

/-- The ring-full policy (R79). -/
def State.fullVerdict (s : State) : Verdict :=
  match s.layout.policy with
  | .stall => .stallRing
  | .refuse => .refuseFull
  | .breakJournal => .breakFull

/-- The journal decision in ACTIVE (R69); `behind` says that an older entry is held SLOT (R66). -/
def State.journalVerdict (s : State) (r : Request) (behind : Bool) : Verdict :=
  if (s.touch.lookup r.line).isSome then .forward
  else if !s.slotFree || behind then .hold .slot
  else if s.hasSpace then .journal
  else s.fullVerdict

/-- The decision of a write to a JOURNALED line (R68). -/
def State.journaledVerdict (s : State) (r : Request) (behind : Bool) : Verdict :=
  match s.eng.state with
  | .active => s.journalVerdict r behind
  | .stalled => if (s.touch.lookup r.line).isSome then .forward else .hold .space
  | .off | .broken => .forward
  | .opening | .quiescing | .rolling | .closing | .scanning => .hold .engine
  | .resetting => .answer .aborted

/-- The decision of a write: steps 6 to 9 of R53 (R55, R56, R57, R58, R59), then its mode (R50). -/
def State.writeVerdict (s : State) (r : Request) (behind : Bool) : Verdict :=
  if s.eng.state = .resetting then .answer .aborted
  else if s.eng.state ≠ .off ∧ s.layout.inRing r.line then .answer .refused
  else if s.mode r.line = .frozen then .answer .refused
  else if s.isWatched r then s.watchVerdict r
  else if s.mode r.line = .journaled then s.journaledVerdict r behind
  else .forward

/-- The decision of a live read (R91). -/
def State.readVerdict (s : State) (r : Request) : Verdict :=
  if s.eng.state = .resetting then .answer .aborted
  else if s.eng.state = .rolling ∧ s.mode r.line = .journaled then .hold .engine
  else .forward

/-- A view read cannot be served (R96, R98). -/
def State.viewLost (s : State) : Bool :=
  match s.eng.state with
  | .off | .broken | .scanning => true
  | .quiescing | .closing => s.eng.cause.isSome
  | .opening | .active | .stalled | .rolling | .resetting => false

/-- The source of a view read the view reader takes (R98). -/
def State.viewSourceVerdict (s : State) (r : Request) : Verdict :=
  if s.mode r.line = .journaled then
    match s.touch.lookup r.line with
    | some q => .view (.slot q)
    | none => if s.touch.saturated then .answer .viewLost else .view .live
  else .view .live

/-- The decision of a view read, and the view reader's take when a place is free (R95, R96, R97, R98). -/
def State.viewVerdict (s : State) (r : Request) : Verdict :=
  if s.eng.state = .resetting then .answer .aborted
  else if s.viewLost then .answer .viewLost
  else if s.eng.state = .rolling then .hold .engine
  else if Config.viewPlaces ≤ s.views.length then .hold .place
  else s.viewSourceVerdict r

/-- The decision of a request that is the oldest for its line (R63, R65). -/
def State.verdict (s : State) (r : Request) (behind : Bool) : Verdict :=
  match r.kind with
  | .write _ => s.writeVerdict r behind
  | .read => s.readVerdict r
  | .viewRead => s.viewVerdict r

/-- The outcome needs an entry in the hold queue (R64). -/
def Verdict.needsEntry : Verdict → Bool
  | .hold _ | .journal | .stallRing => true
  | .forward | .answer _ | .refuseFull | .breakFull | .watch | .view _ => false

/-! ## What a decision does -/

/-- The slot of a CHANGE record whose old-data read is outstanding (R71). -/
def changeSlot (h : Header) (tag : UpTag) : Slot :=
  { header := h, oldData := .reading, headerWrite := .notIssued, dataWrite := .notIssued, held := some tag, abandoned := false }

/-- The header of a CHANGE record that is assigned now for a line (R3). -/
def State.changeHeader (s : State) (line : Addr) : Header :=
  { kind := .change, dup := s.touch.saturated || s.touch.fills, source := .none, region := s.regionIndex line
    epoch := s.eng.epoch, seq := s.ring.tail, line := line, tag := 0, segmentStart := s.segmentStart }

/-- The touch-table update of a journal operation's start, and SATURATED with the state of this decision (R40; log 40). -/
def State.touchInsert (s : State) (line : Addr) (q : Nat) : State :=
  let t : State := { s with touch := s.touch.insert line q }
  if s.touch.fills then t.raise .saturated (some q) none (some Config.touchPlaces) else t

/-- A journal operation starts, less the entry's reason (R72). -/
def State.startOperation (s : State) (r : Request) : State :=
  let h := s.changeHeader r.line
  ((s.assign (changeSlot h r.tag)).touchInsert r.line h.seq).handOwn .read r.line fullMask (.oldData h.seq)

/-- A decided request is held: entered when it arrives, kept in its place when it is queued. The decision has passed a write to
the watch unit or not (R59), which decides what OFF makes of it (R114). -/
def State.holdRequest (s : State) (queued : Bool) (r : Request) (w : Wait) : State :=
  if queued then s.setHeld r.tag w (s.isWatched r) else s.enter { r with watched := s.isWatched r } w

/-- A decided request is forwarded. Issued in that event, a queued one leaves the queue (R67, R177); otherwise a queued one stays
queued, and one decided on arrival is the pending forward, until it is issued (R67, R176). -/
def State.forwardRequest (s : State) (queued : Bool) (r : Request) : State :=
  let t := s.handForward r
  match queued, s.down.takesAtOnce with
  | true, true => t.leave r
  | true, false => t.setWait r.tag .issue
  | false, true => t
  | false, false => { t with up := { t.up with pendingForward := some r.tag } }

/-- A decided request is answered without reaching memory, and leaves the queue if queued. -/
def State.answerRequest (s : State) (queued : Bool) (r : Request) (st : LinkStatus) : State :=
  if queued then (s.answer r.tag st none).leave r else s.answer r.tag st none

/-- The view reader takes a view read into a place and issues its request (R98, R99, R100). -/
def State.takeView (s : State) (queued : Bool) (r : Request) (src : ViewSource) : State :=
  let place : ViewPlace := { tag := r.tag, mask := r.mask, source := src, internalTag := s.down.freeTag }
  let t : State := { s with views := s.views ++ [place] }
  let u := match src with
    | .slot q => t.handOwn .read (t.layout.dataAddr q) fullMask .view
    | .live => t.handOwn .read r.line r.mask .view
  if queued then u.leave r else u

/-- RING_FULL for a write (R80, R83). -/
def State.raiseRingFull (s : State) (r : Request) : State :=
  s.raise .ringFull (some s.ring.tail) (some r.tag.toNat) (some s.layout.capacity)

/-- Entry into STALLED with the stall timer at 0 (R80). -/
def State.enterStalled (s : State) : State := { (s.setEngine .stalled) with stall := some 0 }

/-- The first RING_FULL answer of a full period is reported (R83). -/
def State.reportFull (s : State) (r : Request) : State :=
  if s.ring.fullReported then s
  else { (s.raiseRingFull r) with ring := { s.ring with fullReported := true } }

/-- What a decision does, for a request that is queued or has just arrived. -/
def State.enact (s : State) (queued : Bool) (r : Request) : Verdict → State
  | .forward => s.forwardRequest queued r
  | .answer st => s.answerRequest queued r st
  | .hold w => s.holdRequest queued r w
  | .journal => (s.startOperation r).holdRequest queued r (.record s.ring.tail)
  | .stallRing => ((s.holdRequest queued r .space).enterStalled).raiseRingFull r
  | .refuseFull => (s.reportFull r).answerRequest queued r .ringFull
  | .breakFull => (s.enterBroken .ringFullBreak).forwardRequest queued r
  | .watch => (s.watchAction r).forwardRequest queued r
  | .view src => s.takeView queued r src

/-- A request decided on arrival: when its outcome needs an entry and the queue is full, the decision is not carried
out and the request becomes the waiting request (R64). -/
def State.decideArrival (s : State) (r : Request) : State :=
  let v := s.verdict r (s.hold.queue.any fun e => decide (e.wait = .slot))
  if v.needsEntry ∧ Config.holdPlaces ≤ s.hold.queue.length then { s with hold := { s.hold with waiting := some r } }
  else s.enact false r v

/-- A request is handed to the hold queue (R63). -/
def State.submit (s : State) (r : Request) : State :=
  if s.hold.queue.any (fun e => decide (e.req.line = r.line)) then s.enter r .line else s.decideArrival r

/-- An older entry than the one with this tag is held SLOT (R66). -/
def behindSlot (tag : UpTag) : List Entry → Bool
  | [] => false
  | e :: es => if e.req.tag = tag then false else decide (e.wait = .slot) || behindSlot tag es

/-- A queued entry is decided (R65). -/
def State.decideEntry (s : State) (r : Request) : State :=
  s.enact true r (s.verdict r (behindSlot r.tag s.hold.queue))

/-- The oldest entry that is to be decided in this event (R66). -/
def State.firstReady (s : State) : Option Entry := s.hold.queue.find? fun e => e.wait = .ready

/-- The entries one event makes decidable are decided one after another, oldest first, an entry that a decision of this event makes
decidable among them (log 39); when none is left and the queue has room, the waiting request is handed to the queue anew (R64,
R66; log 19). -/
def State.settleQueue : Nat → State → State
  | 0, s => s
  | n + 1, s =>
    match s.firstReady with
    | some e => settleQueue n (s.decideEntry e.req)
    | none =>
      match s.hold.waiting with
      | none => s
      | some r =>
        if s.hold.queue.length < Config.holdPlaces then
          settleQueue n (State.submit { s with hold := { s.hold with waiting := none } } r)
        else s

/-- Decisions enough for any event. An entry is decided at most once between two changes of engine state, and each such
change is made by an entry that is then forwarded and not decided again, or is the one entry into BROKEN. -/
def State.settleFuel (s : State) : Nat := 4 * (s.hold.queue.length + 2) * (s.hold.queue.length + 2)

end Sys2Proof.Machine
end

