-- ==== Sys2Proof/Machine/Engine.lean ====
section
/-! DEFINITION. The operations of the engine, the replay unit and the scan unit that one event may complete, and the end of
every event (chapters 7, 8, 9 and section 11.7). -/

namespace Sys2Proof.Machine

/-! ## Opening and closing -/

/-- Step 1 of the opening sequence (R126). -/
def State.openingStep1 (s : State) : State :=
  State.requestStatus { s with
    eng := { s.eng with cause := none, action := none, pendingTarget := none }
    ring := { head := 0, frontier := 0, tail := 0, highArmed := true, fullReported := false }
    touch := Touch.empty
    segments := []
    timer := { s.timer with counter := 0, phase := 0 } } true

/-- The header of the OPEN record (R3). -/
def State.openHeader (s : State) : Header :=
  { kind := .opening, dup := false, source := s.eng.opener.source, region := 0, epoch := s.eng.epoch, seq := s.ring.tail
    line := 0, tag := 0, segmentStart := 0 }

/-- The OPEN record is assigned and listed; its header write is not part of this (R25, R127). The slot is the one given:
every other is free at step 1 (R126), and the entry becomes the only one (R25). -/
def State.assignOpen (s : State) (slot : Slot) : State :=
  State.occupancyChanged { s with
    slots := [slot]
    ring := { s.ring with tail := s.ring.tail + 1 }
    segments := [{ seq := s.ring.tail, tag := 0, source := s.eng.opener.source }]
    watch := { s.watch with occasion := .idle } }

/-- The opening's status write has returned OK: the OPEN record is assigned and its header write issued (R127). -/
def State.openRecord (s : State) : State := (s.assignOpen (headerSlot s.openHeader)).handHeader s.openHeader

/-- A status write failed while OPENING: the OPEN record is assigned, its write is not issued, and the engine breaks (R127).
The slot has nothing outstanding, so the entry into BROKEN frees it. -/
def State.openingBroken (s : State) : State :=
  (s.assignOpen { headerSlot s.openHeader with headerWrite := .notIssued }).enterBroken .controlFault

/-- The end of closing (R136). -/
def State.closeEpoch (s : State) : State :=
  let t := State.occupancyChanged { s with
    eng := { s.eng with state := .off, epoch := 0, cause := none, pendingTarget := none }
    ring := { s.ring with head := 0, frontier := 0, tail := 0, fullReported := false }
    touch := Touch.empty
    segments := []
    watch := { s.watch with occasion := .idle } }
  (t.raise .closed (some s.ring.frontier) (some s.eng.epoch.toNat) none).enterOff

/-! ## Quiescing -/

/-- COMMIT, STOP or ROLLBACK is accepted (R130). -/
def State.beginQuiesce (s : State) (a : Action) : State :=
  { s with eng := { s.eng with state := .quiescing, action := some a }, stall := none }

/-- Quiescing is to end (R132). -/
def State.quiesceDue (s : State) : Bool := decide (s.eng.state = .quiescing) && s.eng.action.isSome && s.slots.isEmpty

/-- The epoch id after the one held (R123, R125). -/
def nextEpoch (e : Epoch) : Epoch := if e = 0xFFFFFFFF#32 then 1 else e + 1

/-- A rollback to m begins (R144). -/
def State.beginRollback (s : State) (m : Nat) : State :=
  let p : Replay :=
    { target := m, cursor := s.ring.tail - 1, readCursor := s.ring.tail - 1, places := [], replayed := 0, faults := 0
      begun := false }
  State.requestStatus { s with eng := { s.eng with state := .rolling, action := none }, replay := some p } true

/-- The end of quiescing: the engine goes on with the pending action (R132, R134, R135, R144). -/
def State.endQuiesce (s : State) : State :=
  match s.eng.action with
  | some .commit =>
    State.openingStep1 { s with eng := { s.eng with state := .opening, epoch := nextEpoch s.eng.epoch, opener := .commit } }
  | some .stop => State.requestStatus { s with eng := { s.eng with state := .closing, action := none } } true
  | some (.rollback m) => s.beginRollback m
  | none => s

/-! ## Replay -/

/-- The place of a seq that the replay unit has just taken: both reads outstanding (R147). -/
def freshReplayPlace (q : Nat) : ReplayPlace := { seq := q, header := .outstanding, data := .outstanding, writing := false }

/-- Slots are read while a place is free and the read cursor is above the target (R147). Of the two reads of a slot the header read
is handed first and takes the lower tag (log 44). -/
def State.readReplay : Nat → State → State
  | 0, s => s
  | n + 1, s =>
    match s.replay with
    | none => s
    | some p =>
      if p.begun ∧ p.places.length < Config.replayPlaces ∧ p.target < p.readCursor then
        let t := (s.handOwn .read (s.layout.headerAddr p.readCursor) fullMask (.replayHeader p.readCursor))
        let u := (t.handOwn .read (s.layout.dataAddr p.readCursor) fullMask (.replayData p.readCursor))
        let q := { p with places := p.places ++ [freshReplayPlace p.readCursor], readCursor := p.readCursor - 1 }
        readReplay n { u with replay := some q }
      else s

/-- What settling a slot yields (R148). -/
inductive ReplayOutcome where
  | pending
  | fault
  | skip
  | restore (line : Addr) (data : Line)
  deriving DecidableEq, Repr

/-- The outcome of a place, by the first row of R148 that applies; pending while a read of it is outstanding. -/
def replayOutcome (x : ReplayPlace) (e : Epoch) : ReplayOutcome :=
  match x.header, x.data with
  | .outstanding, _ => .pending
  | .ok _, .outstanding => .pending
  | .error, .outstanding => .pending
  | .error, .error => .fault
  | .error, .ok _ => .fault
  | .ok _, .error => .fault
  | .ok h, .ok d =>
    if !recordValid h d x.seq e then .fault
    else if readKind h = RecordKind.change.code then .restore (readLine h) d
    else .skip

/-- The place of a seq is freed, and the replay cursor moves below it (R148). -/
def Replay.settled (p : Replay) (q : Nat) (fault : Nat) : Replay :=
  { p with places := p.places.filter fun x => x.seq ≠ q, faults := p.faults + fault, cursor := q - 1 }

/-- Seqs at the replay cursor are settled in descending order (R148). A restoring write keeps the cursor where it is until it is
issued: where memory takes it in the event of the settling, the cursor moves on and settling with it (R149). -/
def State.settleReplay : Nat → State → State
  | 0, s => s
  | n + 1, s =>
    match s.replay with
    | none => s
    | some p =>
      match p.places.find? fun x => decide (x.seq = p.cursor) && !x.writing with
      | none => s
      | some x =>
        match replayOutcome x s.eng.epoch with
        | .pending => s
        | .fault => settleReplay n (State.readReplay 1 { s with replay := some (p.settled x.seq 1) })
        | .skip => settleReplay n (State.readReplay 1 { s with replay := some (p.settled x.seq 0) })
        | .restore line data =>
          let q := { p with places := p.places.map fun y => if y.seq = x.seq then { y with writing := true } else y }
          let t := s.handOwn (.write data) line fullMask (.restore x.seq)
          if s.down.takesAtOnce then settleReplay n { t with replay := some { q with cursor := x.seq - 1 } }
          else { t with replay := some q }

/-- The rollback is to end: replay has begun, the cursor is at the target and no restoring write is outstanding (R152). -/
def State.rollbackDue (s : State) : Bool :=
  decide (s.eng.state = .rolling) &&
    match s.replay with
    | some p => p.begun && decide (p.cursor = p.target) && p.places.isEmpty
    | none => false

/-- The indices, list and table at the end of a rollback to m (R27, R42, R83, R152). -/
def State.cutBack (s : State) (m : Nat) : State :=
  State.armIfBelow { s with
    eng := { s.eng with pendingTarget := none }
    ring := { s.ring with frontier := m + 1, tail := m + 1, fullReported := false }
    segments := s.segments.filter fun e => decide (e.seq ≤ m)
    touch := Touch.empty
    replay := none }

/-- The end of a rollback (R152, R153). ROLLBACK_DONE carries the state that the rollback's own end enters, before any held request
is decided (log 40). -/
def State.endRollback (s : State) : State :=
  match s.replay with
  | none => s
  | some p =>
    let t := s.cutBack p.target
    if p.faults = 0 then
      (t.enterActive.requestStatus false).raise .rollbackDone (some p.target) (some p.replayed) (some 0)
    else
      (t.enterBroken .rollbackFault).raise .rollbackDone (some p.target) (some p.replayed) (some (1 + 256 * p.faults))

/-- The rollback ends in the event that makes it due (R152). -/
def State.checkRollback (s : State) : State := if s.rollbackDue then s.endRollback else s

/-- Settling as far as the returned reads allow, and the end of the rollback when it is due. -/
def State.goOnReplay (s : State) : State := (State.settleReplay (Config.replayPlaces + 1) s).checkRollback

/-- The start write has returned OK: replay begins (R144, R147). -/
def State.beginReplay (s : State) : State :=
  match s.replay with
  | none => s
  | some p =>
    (State.readReplay Config.replayPlaces
      { s with watch := { s.watch with occasion := .idle }, replay := some { p with begun := true } }).checkRollback

/-- A status write failed while ROLLING: the rollback is abandoned (R145). -/
def State.abandonRollback (s : State) : State :=
  let t := State.enterBroken { s with replay := none, watch := { s.watch with occasion := .idle } } .controlFault
  match s.replay with
  | some p => t.raiseAbandoned p.target
  | none => t

/-! ## The recovery scan -/

/-- The place of a seq that the scan unit has just taken (R160). -/
def freshScanPlace (q : Nat) : ScanPlace := { seq := q, header := .outstanding, data := .outstanding }

/-- A read of the place is outstanding. -/
def ScanPlace.reading (x : ScanPlace) : Bool := decide (x.header = .outstanding) || decide (x.data = .outstanding)

/-- Slots are read while a place is free and no stop has been decided (R160). Of the two reads of a slot the header read is handed
first and takes the lower tag (log 44). -/
def State.readScan : Nat → State → State
  | 0, s => s
  | n + 1, s =>
    match s.scan with
    | none => s
    | some c =>
      if !c.stopped ∧ c.places.length < Config.scanPlaces then
        let t := (s.handOwn .read (s.layout.headerAddr c.readCursor) fullMask (.scanHeader c.readCursor))
        let u := (t.handOwn .read (s.layout.dataAddr c.readCursor) fullMask (.scanData c.readCursor))
        let k := { c with places := c.places ++ [freshScanPlace c.readCursor], readCursor := c.readCursor + 1 }
        readScan n { u with scan := some k }
      else s

/-- The seek advances over a slot that holds an intact record of the epoch with a seq s' above s, to s' - C + 1 (R160), and always
by one slot at least (log 23). -/
def seekAdvance (x : ScanPlace) (e : Epoch) (capacity : Nat) : Option Nat :=
  match x.header, x.data with
  | .ok h, .ok d =>
    if recordIntact h d e ∧ x.seq < readSeq h then some (max (x.seq + 1) (readSeq h + 1 - capacity)) else none
  | .outstanding, _ | .error, _ | .ok _, .outstanding | .ok _, .error => none

/-- The seek moves the start seq and the scan cursor to q; places below it are freed once their reads have returned (R160). -/
def Scan.seekTo (c : Scan) (q : Nat) : Scan :=
  { c with
    startSeq := q, cursor := q, readCursor := max c.readCursor q
    places := c.places.filter fun x => x.reading || decide (q ≤ x.seq) }

/-- The chain test (R161). -/
def Scan.chained (c : Scan) (h : Line) (q : Nat) : Bool :=
  if readKind h = RecordKind.change.code then
    match c.runStart with
    | some b => decide (readSegmentStart h = b)
    | none => decide (readSegmentStart h < c.startSeq)
  else decide (readSegmentStart h = q)

/-- The record at the scan cursor is accepted into the run (R161). -/
def Scan.accepts (c : Scan) (h d : Line) (q : Nat) : Bool :=
  recordValid h d q c.epoch && (decide (readKind h ≠ RecordKind.opening.code) || decide (q = 0)) && c.chained h q

/-- The built list with one entry more, the oldest dropped when there are 17 (R161). -/
def Scan.list (c : Scan) (e : Segment) : Scan :=
  match c.built with
  | [] => { c with built := [e] }
  | b :: bs =>
    if (b :: bs).length < Config.segmentPlaces then { c with built := b :: bs ++ [e] }
    else { c with built := bs ++ [e], dropped := c.dropped + 1, newestDropped := b.seq }

/-- An accepted record is taken into the built list or the built table (R161). -/
def Scan.take (c : Scan) (h : Line) (q : Nat) : Scan :=
  if readKind h = RecordKind.change.code then
    if (c.table.lookup (readLine h)).isSome then c
    else { c with table := c.table.insert (readLine h) q, fullAt := if c.table.fills then q else c.fullAt }
  else
    { c.list { seq := q, tag := readTag h, source := readSource h } with runStart := some q, table := Touch.empty }

/-- The scan cursor moves past an accepted seq; the run stops at C records (R161). -/
def Scan.advance (c : Scan) (q : Nat) (capacity : Nat) : Scan :=
  { c with
    cursor := q + 1
    places := c.places.filter fun x => x.seq ≠ q
    stopped := c.stopped || decide (c.startSeq + capacity ≤ q + 1) }

/-- The place at the cursor is judged in phase RUN (R161). -/
def Scan.judge (c : Scan) (x : ScanPlace) (capacity : Nat) : Scan :=
  match x.header, x.data with
  | .ok h, .ok d =>
    if c.accepts h d x.seq then (c.take h x.seq).advance x.seq capacity
    else { c with stopped := true }
  | .outstanding, _ | .error, _ | .ok _, .outstanding | .ok _, .error => { c with stopped := true }

/-- The seq at the scan cursor is settled: the seek first, then the run (R160, R161). -/
def Scan.settle (c : Scan) (x : ScanPlace) (capacity : Nat) : Scan :=
  match c.phase with
  | .run => c.judge x capacity
  | .seek =>
    match seekAdvance x c.epoch capacity with
    | some q => c.seekTo q
    | none => { c with phase := .run }.judge x capacity

/-- Seqs at the scan cursor are settled in increasing order, as far as the returned reads allow (R160, R161). A place that the settling
of a seq frees is taken again, and its two reads handed, before the next seq is settled, though that one may decide the stop in this
event (log 45). -/
def State.settleScan : Nat → State → State
  | 0, s => s
  | n + 1, s =>
    match s.scan with
    | none => s
    | some c =>
      if c.stopped then s
      else match c.places.find? fun x => decide (x.seq = c.cursor) && !x.reading with
        | none => s
        | some x =>
          settleScan n (State.readScan Config.scanPlaces { s with scan := some (c.settle x s.layout.capacity) })

/-- The scan is to end: a stop is decided and no read is outstanding (R162). -/
def State.scanDue (s : State) : Bool :=
  decide (s.eng.state = .scanning) &&
    match s.scan with
    | some c => c.stopped && !c.places.any ScanPlace.reading
    | none => false

/-- The engine returns to OFF without an epoch (R158, R164). -/
def State.failScan (s : State) (result : Nat) : State :=
  let t := State.enterOff { s.emptyJournal with eng := { s.eng with cause := none, pendingTarget := none }, scan := none }
  t.raise .recoverDone (some 0) (some 0) (some result)

/-- The run's indices, list and table are installed (R162, R163); H is clamped to L. -/
def State.installScan (s : State) (c : Scan) : State :=
  let t := { s with
    ring := { s.ring with head := c.startSeq, frontier := c.cursor, tail := c.cursor }
    segments := c.built, touch := c.table, scan := none }
  if c.built.isEmpty then t else { t with ring := { t.ring with head := min c.startSeq t.segmentStart } }

/-- The RECOVER marker of an empty list (R164). Every other slot is free (R29). Its seq is at or above H, so the clamp leaves H
where it is. -/
def State.recoverMark (s : State) : State :=
  let h := s.markHeader .recover 0
  State.handHeader { s with
    slots := [headerSlot h]
    ring := { s.ring with head := min s.ring.head h.seq, tail := s.ring.tail + 1 }
    segments := [{ seq := h.seq, tag := 0, source := .recover }]
    touch := Touch.empty } h

/-- The broken cause the stored state gives at the end of the scan (R165); none for ACTIVE. The rebuilt list is that of R163: the
RECOVER marker of an empty list is no entry of it. -/
def Scan.cause (c : Scan) : Option Cause :=
  match c.storedState with
  | 0 => some .recoveredAfterStop
  | 2 => some ((causeOfCode c.storedCause).getD .recordFault)
  | 3 => if c.built.any fun e => decide (e.seq = c.storedTarget) then none else some .rollbackFault
  | _ => none

/-- The engine state at the end of the scan (R165). -/
def scanState : Option Cause → EngineState
  | none => .active
  | some _ => .broken

/-- MARK_REFUSED for dropped entries (R163): source code 6 and the result code of LIST_FULL. -/
def State.raiseDropped (s : State) (c : Scan) : State :=
  if c.dropped = 0 then s
  else s.raise .markRefused (some c.newestDropped) (some c.dropped)
    (some (Source.recover.code + 256 * MgmtResult.listFull.code))

/-- RECOVER_DONE with result RECOVERED (R166). -/
def State.raiseRecovered (s : State) : State :=
  s.raise .recoverDone (some s.ring.tail) (some s.occupancy)
    (some (256 * s.segments.length + 65536 * s.eng.pendingTarget.isSome.toNat))

/-- The scan ends in ACTIVE or BROKEN: pending target, events in the order of R166, status write (R165, R166). -/
def State.concludeScan (s : State) (c : Scan) : State :=
  let cause := c.cause
  let a := State.raiseDropped { s with eng := { s.eng with
      state := scanState cause, pendingTarget := if c.storedState = 3 then some c.storedTarget else none } } c
  match cause with
  | none =>
    let b := if c.table.saturated then a.raise .saturated (some c.fullAt) none (some Config.touchPlaces) else a
    (b.occupancyChanged.enterActive.requestStatus false).raiseRecovered
  | some k => (a.occupancyChanged.enterBroken k).raiseRecovered

/-- The end of the scan (R162 to R166). -/
def State.endScan (s : State) : State :=
  match s.scan with
  | none => s
  | some c =>
    let t := s.installScan c
    if !t.segments.isEmpty then t.concludeScan c
    else if t.hasSpace then t.recoverMark.concludeScan c
    else (State.raiseMarkRefused { t with eng := { t.eng with state := .off } } .recover 0 .ringFull).failScan 4

/-- The scan ends in the event that makes it due (R162). -/
def State.checkScan (s : State) : State := if s.scanDue then s.endScan else s

/-- Settling as far as the returned reads allow, and the end of the scan when it is due. -/
def State.goOnScan (s : State) : State := (State.settleScan (2 * Config.scanPlaces) s).checkScan

/-! ## The status write's response -/

/-- The engine goes on with the operation that waited for a status write that has returned OK (R111, R127, R136, R147). -/
def State.goOn (s : State) : State :=
  if s.watch.occasion ≠ .returned then s
  else match s.eng.state with
    | .opening => s.openRecord
    | .rolling => s.beginReplay
    | .closing => s.closeEpoch
    | .off | .active | .broken | .stalled | .quiescing | .scanning | .resetting => s

/-- The occasion is satisfied if the write that has returned was issued at or after it (R110). -/
def State.noteReturn (s : State) : State :=
  { s with watch := { s.watch with
      occasion := if s.watch.occasion = .inFlight then .returned else s.watch.occasion } }

/-- A MEM_ERROR while CLOSING raises the BROKEN event and the closing goes on (R111, R135). Where the write satisfies the closing's
occasion the event carries OFF, the state after the response, and F and T - F as they were before it, and is queued ahead of
CLOSED (log 41). -/
def State.closingFault (s : State) : State :=
  if s.watch.occasion = .returned then ((s.setEngine .off).raiseBroken .controlFault).closeEpoch
  else s.raiseBroken .controlFault

/-- The effect of a MEM_ERROR on a status write, by the engine state (R111). -/
def State.statusFault (s : State) : State :=
  match s.eng.state with
  | .active | .stalled => s.enterBroken .controlFault
  | .opening => if s.segments.isEmpty then s.openingBroken else s.enterBroken .controlFault
  | .rolling => s.abandonRollback
  | .quiescing => if s.eng.cause.isSome then s.raiseBroken .controlFault else s.quiesceFault .controlFault
  | .broken => s.raiseBroken .controlFault
  | .closing => s.closingFault
  | .off | .scanning | .resetting => s

/-- After the response has been taken, the flag clears and a pending update is issued in the same event (R110). While the
response is taken the flag still stands, so an occasion of this event sets the update pending flag (R111). -/
def State.issuePending (s : State) : State :=
  let t := { s with watch := { s.watch with outstanding := false } }
  if s.watch.updatePending then
    let u := State.issueStatus { t with watch := { t.watch with updatePending := false } }
    { u with watch := { u.watch with occasion := if u.watch.occasion = .queued then .inFlight else u.watch.occasion } }
  else t

/-- A status write returns (R110, R111). In RESETTING the response is discarded and nothing is issued (R112; log 22). -/
def State.statusReturned (s : State) (ok : Bool) : State :=
  if s.eng.state = .resetting then { s with watch := { s.watch with outstanding := false } }
  else if ok then s.noteReturn.goOn.issuePending
  else s.noteReturn.statusFault.issuePending

/-! ## The end of an event -/

/-- The soft reset is to end (R193). -/
def State.resetDue (s : State) : Bool := decide (s.eng.state = .resetting) && !s.down.internalBusy

/-- The final event of a soft reset (R193). -/
def State.endSoftReset (s : State) : State :=
  State.raise { s with
    eng := { s.eng with state := .off, epoch := 0, cause := none, action := none, pendingTarget := none }
    ring := { head := 0, frontier := 0, tail := 0, highArmed := true, fullReported := false }
    segments := [], touch := Touch.empty, slots := [], views := []
    timer := { s.timer with counter := 0, phase := 0, markCount := 0 }
    watch := { outstanding := false, updatePending := false, occasion := .idle }
    replay := none, scan := none
    port := { s.port with
      frame := s.port.frame.map fun f => { f with removesEvent := false }
      events := [], overflow := false } }
    .resetDone none (some s.aborted) none

/-- Quiescing ends in the event that makes it due (R132). -/
def State.checkQuiesce (s : State) : State := if s.quiesceDue then s.endQuiesce else s

/-- The entries the event has made decidable are decided (R66). -/
def State.settle (s : State) : State := State.settleQueue s.settleFuel s

/-- The soft reset ends in the event that makes it due (R193). -/
def State.checkReset (s : State) : State := if s.resetDue then s.endSoftReset else s

/-- The end of every event that may make entries decidable, free the last slot or return the last internal request: quiescing ends,
the decidable entries are decided in the state it leads to, as R151 asks of ROLLING (log 38), the soft reset ends. -/
def State.finish (s : State) : State := s.checkQuiesce.settle.checkReset

end Sys2Proof.Machine
end

