-- ==== Sys2Proof/Machine/Links.lean ====
section
/-! DEFINITION. The commands of the two links (chapter 10): requests and response ready upstream, issue and responses downstream. -/

namespace Sys2Proof.Machine

/-- A command is taken while RSTN is high; while it is low the device is held in reset and takes nothing (R181, R183, R194). -/
def State.running (s : State) (f : State → State) : Host.Outcome State Fault Refusal :=
  if s.rstn then .next (f s.nextEvent) else .next s

/-! ## Upstream -/

/-- The request a classified upstream request becomes (R44, R57, R61). -/
def State.classified (s : State) (r : UpRequest) (k : HeldKind) : Request :=
  { tag := r.tag, kind := k, line := s.addressing.canonical r.addr, mask := r.mask
    watched := decide (s.eng.state ≠ .off) && decide (s.addressing.canonical r.addr = s.layout.controlLine) }

/-- Steps 6 and 7 of R53 refuse a write to the line (R55, R56). -/
def State.refusesWrite (s : State) (line : Addr) : Bool :=
  (decide (s.eng.state ≠ .off) && s.layout.inRing line) || decide (s.mode line = .frozen)

/-- The first outcome of a request whose tag has just become in use: steps 2 to 10 of R53. -/
def State.classify (s : State) (r : UpRequest) : State :=
  if r.addr.toNat % 64 ≠ 0 then s.answer r.tag .malformed none
  else if r.mask = 0 then
    s.answer r.tag .ok (match r.op with | .read => some 0 | .write _ => none)
  else match r.op with
    | .write d =>
      if s.addressing.viewFlag r.addr then s.answer r.tag .refused none
      else if s.refusesWrite (s.addressing.canonical r.addr) then s.answer r.tag .refused none
      else s.submit (s.classified r (.write d))
    | .read =>
      if s.addressing.viewFlag r.addr then s.submit (s.classified r .viewRead)
      else s.submit (s.classified r .read)

/-- The kind code of TAG_REUSE (R173). -/
def linkOpCode : LinkOp → Nat
  | .read => 0
  | .write _ => 1

/-- A request is taken: step 1 of R53, then the rest (R172, R173). -/
def State.takeRequest (s : State) (r : UpRequest) : State :=
  if r.tag ∈ s.up.tags then s.raise .tagReuse none (some r.tag.toNat) (some (linkOpCode r.op))
  else (State.classify { s with up := { s.up with tags := s.up.tags ++ [r.tag] } } r).finish

/-- UPSTREAM_REQUEST (R53, R172): a request presented while ready is withheld is not taken. -/
def execUpstreamRequest (r : UpRequest) (s : State) : Host.Outcome State Fault Refusal :=
  if s.upReady then .next (s.nextEvent.takeRequest r) else .next s

/-- The waiting responses are sent, oldest first, and free their tags (R175). -/
def UpLink.sendWaiting (u : UpLink) : UpLink :=
  { u with
    respReady := true
    tags := u.tags.filter fun t => !u.respWaiting.any fun r => r.tag == t
    sent := u.sent ++ u.respWaiting
    respWaiting := [] }

/-- UPSTREAM_RESPONSE_READY (R175). While RSTN is low the pin is seen and nothing is sent. -/
def execUpstreamResponseReady (s : State) : Host.Outcome State Fault Refusal :=
  if s.rstn then .next { s.nextEvent with up := s.up.sendWaiting }
  else .next { s with up := { s.up with respReady := true } }

/-- RESPONSE_READY_WITHHELD (R175). -/
def execResponseReadyWithheld (s : State) : Host.Outcome State Fault Refusal :=
  .next { s with up := { s.up with respReady := false } }

/-! ## Issue -/

/-- The waiting requests that no request ahead of them must precede (R177). -/
def issuableFrom (ahead : List DownRequest) : List DownRequest → List DownRequest
  | [] => []
  | r :: rs => (if ahead.any (·.before r) then [] else [r]) ++ issuableFrom (ahead ++ [r]) rs

/-- The requests that may be issued next: the oldest, and those equally old with it (R177). -/
def DownLink.issuable (d : DownLink) : List DownRequest := issuableFrom [] d.toIssue

/-- A forwarded request that waited has been issued: it was the pending forward, or a hold-queue entry (R67, R176). -/
def State.forwardIssued (s : State) (tag : UpTag) : State :=
  let t := { s with up := { s.up with pendingForward := if s.up.pendingForward = some tag then none else s.up.pendingForward } }
  match t.hold.queue.find? fun e => decide (e.req.tag = tag) && decide (e.wait = .issue) with
  | some e => t.entryIssued e.req
  | none => t

/-- A restoring write has been issued: the replay cursor moves below it and settling goes on (R148, R149). -/
def State.restoreIssued (s : State) (q : Nat) : State :=
  match s.replay with
  | some p => if s.eng.state = .rolling then State.goOnReplay { s with replay := some { p with cursor := q - 1 } } else s
  | none => s

/-- A waiting request is issued (R177). -/
def State.issue (s : State) (r : DownRequest) : State :=
  let t := { s with down := { s.down with
    toIssue := s.down.toIssue.filter fun x => x.tag ≠ r.tag, issued := s.down.issued ++ [r] } }
  match r.owner with
  | .forward => t.forwardIssued (r.tag.truncate 6)
  | .restore q => t.restoreIssued q
  | .oldData _ | .recordHeader _ | .recordData _ | .status | .startRead | .recoverRead | .view | .replayHeader _
  | .replayData _ | .scanHeader _ | .scanData _ => t

/-- The request DOWNSTREAM_ISSUE takes: among the equally old, the one picked, or the first (log 4). -/
def DownLink.picked (d : DownLink) (pick : Nat) : Option DownRequest := d.issuable[pick]?.or d.issuable.head?

/-- DOWNSTREAM_ISSUE (R177): memory takes a waiting request, or none where none waits, and `a.ready` is its ready from then on. -/
def execDownstreamIssue (a : IssueArgs) (s : State) : Host.Outcome State Fault Refusal :=
  s.running fun t =>
    let u := { t with down := { t.down with ready := a.ready } }
    match t.down.picked a.pick with
    | some r => (u.issue r).finish
    | none => u

/-! ## Responses -/

/-- Memory's status is OK; any other status is MEM_ERROR (R171). -/
def responseOk (r : MemResponse) : Bool := decide (r.status = .ok)

/-- A forwarded request is answered upstream with memory's status and masked data (R170, R175). -/
def State.forwardReturned (s : State) (q : DownRequest) (r : MemResponse) : State :=
  if responseOk r then
    s.answer (q.tag.truncate 6) .ok (match q.op with | .read => some (selected q.mask r.data) | .write _ => none)
  else s.answer (q.tag.truncate 6) .memError none

/-- Both record writes of a CHANGE record are handed: data line and header line, neither waiting for the other (R22, R73). The
data write takes the lower tag (log 44). -/
def State.handRecord (s : State) (h : Header) (old : Line) : State :=
  let t := s.handOwn (.write old) (s.layout.dataAddr h.seq) fullMask (.recordData h.seq)
  t.handOwn (.write (headerLine h old)) (s.layout.headerAddr h.seq) fullMask (.recordHeader h.seq)

/-- An old-data read returns (R73, R76, R78). -/
def State.oldDataReturned (s : State) (q : Nat) (r : MemResponse) : State :=
  match s.slotOf q with
  | none => s
  | some j =>
    if j.abandoned then (s.setSlot q fun j => { j with oldData := .discarded }).freeAbandoned
    else if responseOk r then
      (s.setSlot q fun j => { j with oldData := .image r.data, headerWrite := .outstanding, dataWrite := .outstanding }).handRecord
        j.header r.data
    else (s.setSlot q fun j => { j with oldData := .discarded }).journalFault .oldDataFault

/-- A record write returns; `note` marks it returned in the slot (R12, R13, R77, R78). -/
def State.recordReturned (s : State) (q : Nat) (note : Slot → Slot) (r : MemResponse) : State :=
  match s.slotOf q with
  | none => s
  | some j =>
    if j.abandoned then (s.setSlot q note).freeAbandoned
    else if responseOk r then (s.setSlot q note).advanceFrontier
    else (s.setSlot q note).journalFault .recordFault

/-- The response to a view reader's request: the view read is answered, and its freed place is offered to the view reads that wait for
one, oldest first (R97, R98, R99, R100, R103; log 20). -/
def State.viewReturned (s : State) (r : MemResponse) : State :=
  match s.views.find? fun p => p.internalTag = r.tag with
  | none => s
  | some p =>
    let t := if responseOk r then s.answer p.tag .ok (some (selected p.mask r.data)) else s.answer p.tag .memError none
    State.wake { t with views := s.views.filter fun x => x.internalTag ≠ r.tag } fun w => decide (w = .place)

/-- What a ring read returned. -/
def responseRead (r : MemResponse) : ReadState := if responseOk r then .ok r.data else .error

/-- A read of the replay unit returns (R148); it is discarded when the engine is no longer ROLLING (R155). -/
def State.replayReturned (s : State) (q : Nat) (note : ReplayPlace → ReplayPlace) : State :=
  match s.replay with
  | some p =>
    if s.eng.state = .rolling then
      State.goOnReplay { s with replay := some { p with places := p.places.map fun x => if x.seq = q then note x else x } }
    else s
  | none => s

/-- A restoring write returns (R149); it is discarded when the engine is no longer ROLLING (R155). -/
def State.restoreReturned (s : State) (q : Nat) (r : MemResponse) : State :=
  match s.replay with
  | some p =>
    if s.eng.state = .rolling then
      let k := { p with
        places := p.places.filter fun x => x.seq ≠ q
        replayed := p.replayed + (responseOk r).toNat
        faults := p.faults + (!responseOk r).toNat }
      (State.readReplay 1 { s with replay := some k }).goOnReplay
    else s
  | none => s

/-- A read of the scan unit returns (R160, R162); it is discarded when the engine is no longer SCANNING (R168). A place
below the scan cursor is freed once both its reads have returned. -/
def State.scanReturned (s : State) (q : Nat) (note : ScanPlace → ScanPlace) : State :=
  match s.scan with
  | some c =>
    if s.eng.state = .scanning then
      let l := c.places.map fun x => if x.seq = q then note x else x
      let k := { c with places := l.filter fun x => x.reading || decide (c.cursor ≤ x.seq) }
      (State.readScan Config.scanPlaces { s with scan := some k }).goOnScan
    else s
  | none => s

/-- The mark timer with the counter and the phase that START found (R125; log 37). -/
def MarkTimer.beforeStart (m : MarkTimer) : MarkTimer := { m with counter := m.startCounter, phase := m.startPhase }

/-- The control-block read of START returns (R125); it is discarded in RESETTING (R129). On MEM_ERROR the journal is that of OFF, as
before START. -/
def State.startReadReturned (s : State) (r : MemResponse) : State :=
  if s.eng.state ≠ .opening then s
  else if responseOk r then
    State.openingStep1 { s with eng := { s.eng with epoch := nextEpoch (.ofNat 32 (lineField r.data 32 4)) } }
  else (State.enterOff { s.emptyJournal with timer := s.timer.beforeStart }).raise .openFailed none (some (linkStatusCode .memError)) none

/-- The start seq of a scan (R158). -/
def scanStart (d : Line) : Nat :=
  let v := if lineField d 8 4 = lineField d 32 4 then lineField d 0 8 else 0
  if lineField d 36 1 = 3 then min v (lineField d 40 8) else v

/-- The scan unit at the start of a scan (R158, R159). -/
def scanOf (d : Line) : Scan :=
  { epoch := .ofNat 32 (lineField d 32 4), storedState := lineField d 36 1, storedCause := lineField d 37 1
    storedTarget := lineField d 40 8, startSeq := scanStart d, phase := .seek, cursor := scanStart d
    readCursor := scanStart d, places := [], runStart := none, built := [], dropped := 0, newestDropped := 0
    table := Touch.empty, fullAt := 0, stopped := false }

/-- Why the scan does not go on, as RECOVER_DONE's result code, in the order of R158's table (log 24). -/
def scanFailure (r : MemResponse) : Option Nat :=
  if !responseOk r then some 2
  else if lineField r.data 32 4 = 0 then some 1
  else if 3 < lineField r.data 36 1 then some 3
  else if lineField r.data 36 1 = 2 ∧ (causeOfCode (lineField r.data 37 1)).isNone then some 3
  else none

/-- The control-block read of RECOVER returns (R158, R160); it is discarded in RESETTING (R168). -/
def State.recoverReadReturned (s : State) (r : MemResponse) : State :=
  if s.eng.state ≠ .scanning then s
  else match scanFailure r with
    | some result => s.failScan result
    | none =>
      State.readScan Config.scanPlaces { s with
        eng := { s.eng with epoch := (scanOf r.data).epoch }, scan := some (scanOf r.data) }

/-- A response is delivered to the requester that handed the request (R178). -/
def State.deliver (s : State) (q : DownRequest) (r : MemResponse) : State :=
  match q.owner with
  | .forward => s.forwardReturned q r
  | .oldData n => s.oldDataReturned n r
  | .recordHeader n => s.recordReturned n (fun j => { j with headerWrite := .acknowledged }) r
  | .recordData n => s.recordReturned n (fun j => { j with dataWrite := .acknowledged }) r
  | .status => s.statusReturned (responseOk r)
  | .startRead => s.startReadReturned r
  | .recoverRead => s.recoverReadReturned r
  | .view => s.viewReturned r
  | .replayHeader n => s.replayReturned n fun x => { x with header := responseRead r }
  | .replayData n => s.replayReturned n fun x => { x with data := responseRead r }
  | .restore n => s.restoreReturned n r
  | .scanHeader n => s.scanReturned n fun x => { x with header := responseRead r }
  | .scanData n => s.scanReturned n fun x => { x with data := responseRead r }

/-- The issued request that carries a tag. -/
def DownLink.issuedWith (d : DownLink) (t : DownTag) : Option DownRequest := d.issued.find? fun q => q.tag = t

/-- The tag of an answered request is free (R177, R178). -/
def State.freeTag (s : State) (t : DownTag) : State :=
  { s with down := { s.down with issued := s.down.issued.filter fun q => q.tag ≠ t } }

/-- A response from memory. On the link it carries a tag and nothing else that tells its requester, so the tag decides
whom it is delivered to (R178; log 5). A tag not in use makes it a stray that is discarded (R179). A tag whose request
memory has not taken is ruled out by R179 (log 6). -/
def State.memoryResponse (s : State) (r : MemResponse) : Host.Outcome State Fault Refusal :=
  if !s.rstn then .next s
  else match s.down.issuedWith r.tag with
    | some q => .next ((s.nextEvent.freeTag r.tag).deliver q r).finish
    | none => if s.down.inUse r.tag then .fault .memoryContract else .next s.nextEvent

/-- FORWARDED_RESPONSE (R175). -/
def execForwardedResponse (r : MemResponse) (s : State) : Host.Outcome State Fault Refusal := s.memoryResponse r

/-- OLD_DATA_RESPONSE (R73, R76). -/
def execOldDataResponse (r : MemResponse) (s : State) : Host.Outcome State Fault Refusal := s.memoryResponse r

/-- RECORD_WRITE_ACK (R12, R77). -/
def execRecordWriteAck (r : MemResponse) (s : State) : Host.Outcome State Fault Refusal := s.memoryResponse r

/-- STATUS_WRITE_RESPONSE (R110, R111). -/
def execStatusWriteResponse (r : MemResponse) (s : State) : Host.Outcome State Fault Refusal := s.memoryResponse r

/-- START_CONTROL_READ_RESPONSE (R125). -/
def execStartControlReadResponse (r : MemResponse) (s : State) : Host.Outcome State Fault Refusal := s.memoryResponse r

/-- RECOVER_CONTROL_READ_RESPONSE (R158). -/
def execRecoverControlReadResponse (r : MemResponse) (s : State) : Host.Outcome State Fault Refusal := s.memoryResponse r

/-- VIEW_READER_RESPONSE (R99, R100, R103). -/
def execViewReaderResponse (r : MemResponse) (s : State) : Host.Outcome State Fault Refusal := s.memoryResponse r

/-- REPLAY_READ_RESPONSE (R148). -/
def execReplayReadResponse (r : MemResponse) (s : State) : Host.Outcome State Fault Refusal := s.memoryResponse r

/-- RESTORING_WRITE_ACK (R149). -/
def execRestoringWriteAck (r : MemResponse) (s : State) : Host.Outcome State Fault Refusal := s.memoryResponse r

/-- SCAN_READ_RESPONSE (R160, R161). -/
def execScanReadResponse (r : MemResponse) (s : State) : Host.Outcome State Fault Refusal := s.memoryResponse r

/-- STRAY_RESPONSE (R179). -/
def execStrayResponse (r : MemResponse) (s : State) : Host.Outcome State Fault Refusal := s.memoryResponse r

end Sys2Proof.Machine
end

