-- ==== Sys2Proof/Machine/Port.lean ====
section
/-! DEFINITION. Readback and configuration commands of the management port (chapter 11). -/

namespace Sys2Proof.Machine

/-- The taken command's result and data are fixed in the event of taking (R182, R184). -/
def State.reply (s : State) (res : MgmtResult) (data : List Byte) : State :=
  { s with port := { s.port with frame := some { result := res, data := data, removesEvent := false } } }

/-- Zero bytes in place of data (R184). -/
def zeros (n : Nat) : List Byte := List.replicate n 0

/-- While RESETTING every command but READ_STATUS is answered BUSY, with zeros for its n data bytes (R183). -/
def State.unlessResetting (s : State) (n : Nat) (t : State) : State :=
  if s.eng.state = .resetting then s.reply .busy (zeros n) else t

/-- The commands taken in OFF alone: BUSY in RESETTING, BAD_STATE in the other states (R139). -/
def State.inOff (s : State) (t : State) : State :=
  s.unlessResetting 0 (if s.eng.state = .off then t else s.reply .badState [])

/-! ## Readback -/

/-- READ_ID (R185). -/
def execReadId (s : State) : Host.Outcome State Fault Refusal :=
  s.running fun t => t.unlessResetting 4 (t.reply .accepted idBytes)

/-- READ_STATUS, taken in every engine state (R187). -/
def execReadStatus (s : State) : Host.Outcome State Fault Refusal :=
  s.running fun t => t.reply .accepted (snapshot t)

/-- The frame of READ_EVENT: the oldest record, which the end of the frame may remove, or zeros (R191). -/
def State.eventFrame (s : State) : Frame :=
  match s.port.events with
  | [] => { result := .accepted, data := zeros 20, removesEvent := false }
  | r :: rs => { result := .accepted, data := eventBytes r rs.length, removesEvent := true }

/-- READ_EVENT (R191). -/
def execReadEvent (s : State) : Host.Outcome State Fault Refusal :=
  s.running fun t => t.unlessResetting 20 { t with port := { t.port with frame := some t.eventFrame } }

/-- READ_SEGMENTS (R188). -/
def execReadSegments (s : State) : Host.Outcome State Fault Refusal :=
  s.running fun t => t.unlessResetting 1 (t.reply .accepted (segmentBytes t.segments))

/-- READ_REGION (R185). -/
def execReadRegion (index : Byte) (s : State) : Host.Outcome State Fault Refusal :=
  s.running fun t => t.unlessResetting 9 <|
    match t.regions.toList[index.toNat]? with
    | some r => t.reply .accepted (regionBytes index.toNat r)
    | none => t.reply .badArg (zeros 9)

/-! ## Configuration -/

/-- The layout of SET_LAYOUT's arguments, when every one is in range (R19, R186). -/
def layoutOf (a : LayoutArgs) : Option Layout :=
  match policyOfCode a.policy.toNat with
  | none => none
  | some p =>
    if a.ringBase.toNat % 4096 = 0 ∧ 8 ≤ a.order.toNat ∧ a.order.toNat ≤ 20
        ∧ a.ringBase.toNat + 128 * 2 ^ a.order.toNat ≤ 2 ^ 40 ∧ a.controlLine.toNat % 64 = 0
        ∧ a.stallLimit ≠ 0 ∧ a.stride ≠ 0 ∧ 1 ≤ a.highWater.toNat ∧ a.highWater.toNat ≤ 8 then
      some { ringBase := a.ringBase, order := a.order.toNat, controlLine := a.controlLine, policy := p
             stallLimit := a.stallLimit.toNat, stride := a.stride.toNat, highWater := a.highWater.toNat }
    else none

/-- SET_LAYOUT (R19). -/
def execSetLayout (a : LayoutArgs) (s : State) : Host.Outcome State Fault Refusal :=
  s.running fun t => t.inOff <|
    match layoutOf a with
    | none => t.reply .badArg []
    | some l => State.reply { t with layout := l, ring := { t.ring with highArmed := true } } .accepted []

/-- The addressing of SET_ADDRESSING's arguments, when its own tests pass (R46). -/
def addressingOf (fold : BitVec 16) (view : Byte) : Option Addressing :=
  if 1024 ≤ fold.toNat then none
  else if view = 0xFF then some { fold := fold.truncate 10, viewBit := none }
  else if 30 ≤ view.toNat ∧ view.toNat ≤ 39 ∧ fold.getLsbD (view.toNat - 30) = false then
    some { fold := fold.truncate 10, viewBit := some view.toNat }
  else none

/-- An enabled region base has a bit of the fold set, or the view bit, set (R46). -/
def State.basesConflict (s : State) (a : Addressing) : Bool :=
  s.regions.toList.any fun r => r.enabled && a.touches r.base

/-- SET_ADDRESSING (R46). -/
def execSetAddressing (fold : BitVec 16) (view : Byte) (s : State) : Host.Outcome State Fault Refusal :=
  s.running fun t => t.inOff <|
    match addressingOf fold view with
    | none => t.reply .badArg []
    | some a => if t.basesConflict a then t.reply .badArg [] else State.reply { t with addressing := a } .accepted []

/-- The region entry of WRITE_REGION's arguments, when every test passes (R51). -/
def regionOf (a : RegionArgs) (ad : Addressing) : Option Region :=
  match modeOfCode a.mode.toNat with
  | none => none
  | some m =>
    if a.enabled.toNat ≤ 1 ∧ 12 ≤ a.order.toNat ∧ a.order.toNat ≤ 39 ∧ a.base.toNat % 2 ^ a.order.toNat = 0
        ∧ ad.touches a.base = false then
      some { enabled := decide (a.enabled = 1), base := a.base, order := a.order.toNat, mode := m }
    else none

/-- WRITE_REGION (R51). -/
def execWriteRegion (a : RegionArgs) (s : State) : Host.Outcome State Fault Refusal :=
  s.running fun t => t.inOff <|
    if h : a.index.toNat < 16 then
      match regionOf a t.addressing with
      | none => t.reply .badArg []
      | some r => State.reply { t with regions := t.regions.set a.index.toNat r h } .accepted []
    else t.reply .badArg []

/-- The mark timer after SET_TIMER's arguments, when every one is in range (R35): the counter and the phase restart, for a START in
progress too (log 37). -/
def MarkTimer.configured (m : MarkTimer) (tick : Byte) (compare : BitVec 16) (enable : Byte) : Option MarkTimer :=
  match tickOfCode tick.toNat with
  | none => none
  | some p =>
    if compare ≠ 0 ∧ enable.toNat ≤ 1 then
      some { m with
        tick := p, compare := compare.toNat, enabled := decide (enable = 1), counter := 0, phase := 0, startCounter := 0
        startPhase := 0 }
    else none

/-- SET_TIMER (R35). -/
def execSetTimer (tick : Byte) (compare : BitVec 16) (enable : Byte) (s : State) : Host.Outcome State Fault Refusal :=
  s.running fun t => t.unlessResetting 0 <|
    match t.timer.configured tick compare enable with
    | none => t.reply .badArg []
    | some m => State.reply { t with timer := m } .accepted []

/-- SET_EVENT_MASK (R192). -/
def execSetEventMask (mask : BitVec 16) (s : State) : Host.Outcome State Fault Refusal :=
  s.running fun t => t.unlessResetting 0 (State.reply { t with port := { t.port with mask := mask } } .accepted [])

/-- A byte that is no command code (R183): taken at once, in RESETTING too. -/
def execUnknown (_code : Byte) (s : State) : Host.Outcome State Fault Refusal :=
  s.running fun t => t.reply .unknown []

end Sys2Proof.Machine
end

