-- ==== Sys2Proof/Machine/EpochControl.lean ====
section
/-! DEFINITION. The engine commands (chapters 2, 7, 8, 9 and section 11.7), and the engine's own steps. A step of the engine
is carried out inside the event that makes it due (R132, R127, R147, R152, R136, R162, R193; log 2); its row's command
carries it out in any state in which it is due and changes nothing in another. -/

namespace Sys2Proof.Machine

/-- A line lies where R20 allows the ring and the control block: no fold-set or view bit, and no JOURNALED or FROZEN entry governs it. -/
def State.placeable (s : State) (x : Addr) : Bool := !s.addressing.touches x && decide (s.mode x = .pass)

/-- The lines of the ring area (R1). -/
def Layout.ringLines (l : Layout) : List Addr :=
  (List.range (2 * l.capacity)).map fun i => BitVec.ofNat 40 (l.ringBase.toNat + 64 * i)

/-- The placement checks of START and RECOVER (R20). -/
def State.placementOk (s : State) : Bool :=
  decide (s.layout.order ≠ 0) && !s.layout.inRing s.layout.controlLine && s.placeable s.layout.controlLine
    && s.layout.ringLines.all s.placeable

/-- The mark timer's counter and phase are kept for a START that fails (R125; log 37). -/
def MarkTimer.atStart (m : MarkTimer) : MarkTimer := { m with startCounter := m.counter, startPhase := m.phase }

/-- START, decided in OFF (R124). -/
def State.acceptStart (s : State) : State :=
  if s.placementOk then
    State.reply (State.handOwn { s with
        eng := { s.eng with state := .opening, epoch := 1, opener := .start }, timer := s.timer.atStart }
      .read s.layout.controlLine fullMask .startRead) .accepted []
  else s.reply .badLayout []

/-- START (R124). -/
def execStart (s : State) : Host.Outcome State Fault Refusal := s.running fun t => t.inOff t.acceptStart

/-- COMMIT and STOP by engine state (R134, R135, R139). -/
def State.quiesceCommand (s : State) (a : Action) : State :=
  match s.eng.state with
  | .active | .stalled | .broken => ((s.beginQuiesce a).reply .accepted []).finish
  | .off => s.reply .badState []
  | .opening | .quiescing | .rolling | .closing | .scanning | .resetting => s.reply .busy []

/-- COMMIT (R134). -/
def execCommit (s : State) : Host.Outcome State Fault Refusal := s.running fun t => t.quiesceCommand .commit

/-- STOP (R135). -/
def execStop (s : State) : Host.Outcome State Fault Refusal := s.running fun t => t.quiesceCommand .stop

/-- MARK, decided under R29 and R30 (R31). -/
def State.markCommand (s : State) (tag : MarkTag) : State :=
  match s.markRefusal with
  | none => (s.acceptMark .management tag).reply .accepted (toBytes 8 s.ring.tail)
  | some why => s.reply why (zeros 8)

/-- MARK (R31). -/
def execMark (tag : MarkTag) (s : State) : Host.Outcome State Fault Refusal :=
  s.running fun t => t.unlessResetting 8 (t.markCommand tag)

/-- The target a ROLLBACK of a valid kind names, before the pending target is compared (R142). -/
def State.rollbackTarget (s : State) (kind : Nat) (q : Nat) : Option Nat :=
  match kind with
  | 0 => some s.segmentStart
  | 1 => if s.ring.head = 0 ∧ (s.segments.head?.map Segment.seq) = some 0 then some 0 else none
  | _ => if s.segments.any fun e => decide (e.seq = q) then some q else none

/-- A target above the pending rollback target is refused (R142). -/
def State.abovePending (s : State) (m : Nat) : Bool :=
  match s.eng.pendingTarget with
  | some p => decide (p < m)
  | none => false

/-- ROLLBACK in ACTIVE and STALLED (R142). -/
def State.tryRollback (s : State) (kind : Nat) (q : Nat) : State :=
  if 2 < kind then s.reply .badArg (zeros 8)
  else match s.rollbackTarget kind q with
    | none => s.reply .badTarget (zeros 8)
    | some m =>
      if s.abovePending m then s.reply .badTarget (zeros 8)
      else ((s.beginQuiesce (.rollback m)).reply .accepted (toBytes 8 m)).finish

/-- ROLLBACK (R141, R142). -/
def execRollback (kind : Byte) (seq : BitVec 64) (s : State) : Host.Outcome State Fault Refusal :=
  s.running fun t =>
    match t.eng.state with
    | .active | .stalled => t.tryRollback kind.toNat seq.toNat
    | .off | .broken => t.reply .badState (zeros 8)
    | .opening | .quiescing | .rolling | .closing | .scanning | .resetting => t.reply .busy (zeros 8)

/-- RECOVER, decided in OFF (R157). The scan unit's stored values are those of R158, not yet read. -/
def State.acceptRecover (s : State) : State :=
  if s.placementOk then
    State.reply (State.handOwn { s with eng := { s.eng with state := .scanning, epoch := 1 }, scan := some (scanOf 0) }
      .read s.layout.controlLine fullMask .recoverRead) .accepted []
  else s.reply .badLayout []

/-- RECOVER (R157). -/
def execRecover (s : State) : Host.Outcome State Fault Refusal := s.running fun t => t.inOff t.acceptRecover

/-- The upstream tags a soft reset answers ABORTED: every held entry not handed downstream, in queue order, then the waiting request
(R89; the order is log 42). -/
def State.abortedTags (s : State) : List UpTag :=
  ((s.hold.queue.filter fun e => decide (e.wait ≠ .issue)).map (·.req.tag)) ++ (s.hold.waiting.map (·.tag)).toList

/-- SOFT_RESET is taken (R89, R193): the replay and scan units are idle outside ROLLING and SCANNING (R146, R159). -/
def State.beginSoftReset (s : State) : State :=
  let t := s.abortedTags.foldl (fun t tag => t.answer tag .aborted none) s
  { t with
    eng := { s.eng with state := .resetting }
    hold := { queue := [], waiting := none }
    slots := abandonSlots s.slots
    stall := none
    ring := { s.ring with fullReported := false }
    watch := { s.watch with occasion := .idle }
    replay := none
    scan := none
    aborted := s.abortedTags.length }

/-- SOFT_RESET (R193). -/
def execSoftReset (s : State) : Host.Outcome State Fault Refusal :=
  s.running fun t => t.unlessResetting 0 ((t.beginSoftReset.reply .accepted []).finish)

/-! ## The engine's own steps -/

/-- OPEN_RECORD_ASSIGN is due: the opening's status write has returned OK (R127). -/
def State.openDue (s : State) : Bool := decide (s.eng.state = .opening) && decide (s.watch.occasion = .returned)

/-- OPEN_RECORD_ASSIGN (R127). -/
def execOpenRecordAssign (s : State) : Host.Outcome State Fault Refusal :=
  s.running fun t => if t.openDue then t.openRecord else t

/-- QUIESCE_END (R132). -/
def execQuiesceEnd (s : State) : Host.Outcome State Fault Refusal :=
  s.running fun t => if t.quiesceDue then t.endQuiesce else t

/-- REPLAY_START is due: the start write has returned OK (R147). -/
def State.replayDue (s : State) : Bool := decide (s.eng.state = .rolling) && decide (s.watch.occasion = .returned)

/-- REPLAY_START (R147). -/
def execReplayStart (s : State) : Host.Outcome State Fault Refusal :=
  s.running fun t => if t.replayDue then t.beginReplay.finish else t

/-- ROLLBACK_END (R152). -/
def execRollbackEnd (s : State) : Host.Outcome State Fault Refusal :=
  s.running fun t => if t.rollbackDue then t.endRollback.finish else t

/-- CLOSING_END is due: the closing status write has returned (R136). -/
def State.closingDue (s : State) : Bool := decide (s.eng.state = .closing) && decide (s.watch.occasion = .returned)

/-- CLOSING_END (R136). -/
def execClosingEnd (s : State) : Host.Outcome State Fault Refusal :=
  s.running fun t => if t.closingDue then t.closeEpoch.finish else t

/-- SCAN_END (R162). -/
def execScanEnd (s : State) : Host.Outcome State Fault Refusal :=
  s.running fun t => if t.scanDue then t.endScan.finish else t

/-- SOFT_RESET_END (R193). -/
def execSoftResetEnd (s : State) : Host.Outcome State Fault Refusal :=
  s.running fun t => if t.resetDue then t.endSoftReset else t

end Sys2Proof.Machine
end

