-- ==== Sys2Proof/Machine/Pins.lean ====
section
/-! DEFINITION. The timers (R36, R82), the reset pin (R194) and the end of a frame (R191). -/

namespace Sys2Proof.Machine

/-- The mark timer counts in this engine state (R36). -/
def State.markRunning (s : State) : Bool :=
  s.timer.enabled && decide (s.eng.state ≠ .off) && decide (s.eng.state ≠ .resetting)

/-- The mark timer expires (R36): the counter restarts, and the phase of its tick with it (log 11), a TIMER marker is requested, the
count increases. -/
def State.markExpiry (s : State) : State :=
  State.requestMark { s with timer := { s.timer with counter := 0, phase := 0, markCount := s.timer.markCount + 1 } }
    .timer s.timer.markCount

/-- MARK_TIMER_EXPIRY (R36). A timer that does not count does not expire (log 9). -/
def execMarkTimerExpiry (s : State) : Host.Outcome State Fault Refusal :=
  s.running fun t => if t.markRunning then t.markExpiry else t

/-- The SPACE entries queued (R82). -/
def State.spaceEntries (s : State) : Nat := (s.hold.queue.filter fun e => decide (e.wait = .space)).length

/-- The stall timer expires (R82): STALL_EXPIRED carries the state after the event, BROKEN. -/
def State.stallExpiry (s : State) : State :=
  let t := (s.setEngine .broken).raise .stallExpired (some s.ring.tail) (some s.layout.stallLimit) (some s.spaceEntries)
  t.enterBroken .stallExpired

/-- STALL_TIMER_EXPIRY (R82). The timer runs in STALLED alone (log 9). -/
def execStallTimerExpiry (s : State) : Host.Outcome State Fault Refusal :=
  s.running fun t => if t.eng.state = .stalled then t.stallExpiry.finish else t

/-- RSTN_FALLS (R183, R194): a frame in progress is abandoned; ALERT and upstream ready follow the pin. -/
def execRstnFalls (s : State) : Host.Outcome State Fault Refusal :=
  .next { s with rstn := false, port := { s.port with frame := none } }

/-- POWER_ON_RESET (R194): every piece of state takes its power-on value. The fabric's response ready and the memory controller's
ready are their own, and what was sent stays sent (log 12, 14). -/
def execPowerOnReset (s : State) : Host.Outcome State Fault Refusal :=
  .next { State.reset with
    up := { State.reset.up with respReady := s.up.respReady, sent := s.up.sent }
    down := { State.reset.down with ready := s.down.ready }
    eventNo := s.eventNo + 1
    pending := s.pending }

/-- SEL goes high with `dataBytes` data bytes shifted out since the command was taken (R183, R191). -/
def Port.endFrame (p : Port) (dataBytes : Nat) : Port :=
  let q := match p.frame with
    | some f => if f.removesEvent ∧ 20 ≤ dataBytes then p.pop else p
    | none => p
  { q with frame := none }

/-- FRAME_END (R183, R191). -/
def execFrameEnd (dataBytes : Nat) (s : State) : Host.Outcome State Fault Refusal :=
  s.running fun t => { t with port := t.port.endFrame dataBytes }

/-- One µs of the reference clock for the stall timer (R82). -/
def State.tickStall (s : State) : State :=
  match s.stall with
  | none => s
  | some n =>
    if s.eng.state = .stalled ∧ s.layout.stallLimit ≤ n + 1 then s.stallExpiry.finish
    else { s with stall := some (n + 1) }

/-- One µs of the reference clock for the mark timer (R34, R36). While the timer does not run the phase of the tick is held with the
counter (log 11). -/
def State.tickMark (s : State) : State :=
  if !s.markRunning then s
  else if s.timer.phase + 1 < s.timer.tick.micros then { s with timer := { s.timer with phase := s.timer.phase + 1 } }
  else if s.timer.counter + 1 < s.timer.compare then
    { s with timer := { s.timer with phase := 0, counter := s.timer.counter + 1 } }
  else s.markExpiry

/-- One µs in which no command arrives (log 8, 10). -/
def State.tick (s : State) : State := if s.rstn then s.nextEvent.tickStall.tickMark else s

end Sys2Proof.Machine
end

