-- ==== Sys2Proof/Machine/Dispatch.lean ====
section
/-! DEFINITION. Each command's meaning: one arm a row of spec/opcode_table.json. -/

namespace Sys2Proof.Machine

def exec (i : Instr) (s : State) : Host.Outcome State Fault Refusal :=
  match i with
  | .upstreamRequest r => Sys2Proof.Machine.execUpstreamRequest r s
  | .upstreamResponseReady => Sys2Proof.Machine.execUpstreamResponseReady s
  | .downstreamIssue a => Sys2Proof.Machine.execDownstreamIssue a s
  | .forwardedResponse r => Sys2Proof.Machine.execForwardedResponse r s
  | .oldDataResponse r => Sys2Proof.Machine.execOldDataResponse r s
  | .recordWriteAck r => Sys2Proof.Machine.execRecordWriteAck r s
  | .statusWriteResponse r => Sys2Proof.Machine.execStatusWriteResponse r s
  | .startControlReadResponse r => Sys2Proof.Machine.execStartControlReadResponse r s
  | .recoverControlReadResponse r => Sys2Proof.Machine.execRecoverControlReadResponse r s
  | .viewReaderResponse r => Sys2Proof.Machine.execViewReaderResponse r s
  | .replayReadResponse r => Sys2Proof.Machine.execReplayReadResponse r s
  | .restoringWriteAck r => Sys2Proof.Machine.execRestoringWriteAck r s
  | .scanReadResponse r => Sys2Proof.Machine.execScanReadResponse r s
  | .strayResponse r => Sys2Proof.Machine.execStrayResponse r s
  | .markTimerExpiry => Sys2Proof.Machine.execMarkTimerExpiry s
  | .stallTimerExpiry => Sys2Proof.Machine.execStallTimerExpiry s
  | .powerOnReset => Sys2Proof.Machine.execPowerOnReset s
  | .frameEnd dataBytes => Sys2Proof.Machine.execFrameEnd dataBytes s
  | .readId => Sys2Proof.Machine.execReadId s
  | .readStatus => Sys2Proof.Machine.execReadStatus s
  | .readEvent => Sys2Proof.Machine.execReadEvent s
  | .readSegments => Sys2Proof.Machine.execReadSegments s
  | .readRegion index => Sys2Proof.Machine.execReadRegion index s
  | .setLayout a => Sys2Proof.Machine.execSetLayout a s
  | .setAddressing fold view => Sys2Proof.Machine.execSetAddressing fold view s
  | .writeRegion a => Sys2Proof.Machine.execWriteRegion a s
  | .setTimer tick compare enable => Sys2Proof.Machine.execSetTimer tick compare enable s
  | .setEventMask mask => Sys2Proof.Machine.execSetEventMask mask s
  | .start => Sys2Proof.Machine.execStart s
  | .commit => Sys2Proof.Machine.execCommit s
  | .mark tag => Sys2Proof.Machine.execMark tag s
  | .rollback kind seq => Sys2Proof.Machine.execRollback kind seq s
  | .stop => Sys2Proof.Machine.execStop s
  | .recover => Sys2Proof.Machine.execRecover s
  | .softReset => Sys2Proof.Machine.execSoftReset s
  | .unknown code => Sys2Proof.Machine.execUnknown code s
  | .openRecordAssign => Sys2Proof.Machine.execOpenRecordAssign s
  | .quiesceEnd => Sys2Proof.Machine.execQuiesceEnd s
  | .replayStart => Sys2Proof.Machine.execReplayStart s
  | .rollbackEnd => Sys2Proof.Machine.execRollbackEnd s
  | .closingEnd => Sys2Proof.Machine.execClosingEnd s
  | .scanEnd => Sys2Proof.Machine.execScanEnd s
  | .softResetEnd => Sys2Proof.Machine.execSoftResetEnd s
  | .rstnFalls => Sys2Proof.Machine.execRstnFalls s
  | .responseReadyWithheld => Sys2Proof.Machine.execResponseReadyWithheld s

end Sys2Proof.Machine
end

