-- ==== Sys2Proof/Safety.lean ====
section
/-! DEFINITION. What counts as a safe state and a safe run, in the terms the statements use. -/

namespace Sys2Proof.Machine

/-- The capacities of the scan unit's structures hold (R159). -/
structure Scan.Bounded (c : Scan) : Prop where
  built : c.built.length ≤ Config.segmentPlaces
  table : c.table.entries.length ≤ Config.touchPlaces
  places : c.places.length ≤ Config.scanPlaces

/-- The capacities of the chip's structures hold (R23, R38, R62, R71, R97, R146, R159, R190). -/
structure State.Bounded (s : State) : Prop where
  hold : s.hold.queue.length ≤ Config.holdPlaces
  slots : s.slots.length ≤ Config.journalSlots
  segments : s.segments.length ≤ Config.segmentPlaces
  touch : s.touch.entries.length ≤ Config.touchPlaces
  views : s.views.length ≤ Config.viewPlaces
  events : s.port.events.length ≤ Config.eventPlaces
  replay : ∀ p, s.replay = some p → p.places.length ≤ Config.replayPlaces
  scan : ∀ c, s.scan = some c → c.Bounded

/-- A target lies at or above H and is listed, or H is 0 (R142, R143). -/
def State.reachable (s : State) (m : Nat) : Prop := s.ring.head ≤ m ∧ (s.ring.head = 0 ∨ ∃ e ∈ s.segments, e.seq = m)

/-- The scan's cursor, its built list and its start seq are in order, and nothing is built before the run begins (R160, R161). -/
structure Scan.Ordered (c : Scan) : Prop where
  cursor : c.startSeq ≤ c.cursor
  built : ∀ e ∈ c.built, c.startSeq ≤ e.seq
  seek : c.phase = .seek → c.built = []

/-- H ≤ F ≤ T (R9), with what keeps it so: no listed entry and no segment start lies below H (R23, R24), and the targets
that a quiescing and a rollback hold are listed (R143). -/
structure State.Ordered (s : State) : Prop where
  headFrontier : s.ring.head ≤ s.ring.frontier
  frontierTail : s.ring.frontier ≤ s.ring.tail
  listed : ∀ e ∈ s.segments, s.ring.head ≤ e.seq
  start : s.ring.head ≤ s.segmentStart
  action : s.eng.state = .quiescing → ∀ m, s.eng.action = some (.rollback m) → s.reachable m
  rolling : s.eng.state = .rolling → ∀ p, s.replay = some p → s.reachable p.target
  scan : ∀ c, s.scan = some c → c.Ordered

/-- The tag laws of the links: no upstream tag is in use twice (R172), a downstream tag below 64 is a forwarded request's and one
from 64 up the device's own (R178), and every waiting request was handed in an event that has begun (R177). -/
structure State.LinksSound (s : State) : Prop where
  tags : s.up.tags.Nodup
  classes : ∀ q ∈ s.down.toIssue ++ s.down.issued, q.owner = .forward ↔ q.tag.toNat < 64
  handed : ∀ q ∈ s.down.toIssue, q.event ≤ s.eventNo

/-- The scan's run and its built list stay within the ring: the cursor at most C above the start seq, and below it until the stop
(R161). -/
structure Scan.WithinRing (c : Scan) (capacity : Nat) : Prop where
  run : c.cursor ≤ c.startSeq + capacity
  going : c.stopped = false → c.cursor < c.startSeq + capacity
  built : ∀ e ∈ c.built, e.seq < c.cursor

/-- T - H ≤ C and T - F ≤ 8 (R9), with what keeps them so: without a broken cause every record of [F, T) has a journal slot (R71);
journaling and rolling go on without a cause alone, and OFF and OPENING hold none (R121, R126, R133, R136); the indices are 0 in OFF,
and in OPENING until the OPEN record takes seq 0 (R126, R127, R136); and what is listed or is a target lies below H + C. -/
structure State.WithinRing (s : State) : Prop where
  held : s.ring.tail ≤ s.ring.head + s.layout.capacity
  inFlight : s.ring.tail ≤ s.ring.frontier + Config.journalSlots
  covered : s.eng.cause = none → s.eng.state ≠ .resetting → ∀ q, s.ring.frontier ≤ q → q < s.ring.tail →
    ∃ j ∈ s.slots, j.header.seq = q ∧ j.abandoned = false
  sound : s.eng.state ∈ [EngineState.active, .stalled, .rolling, .scanning, .off, .opening] ∨
    (s.eng.state = .quiescing ∧ ∃ m, s.eng.action = some (.rollback m)) → s.eng.cause = none
  listed : ∀ e ∈ s.segments, e.seq < s.ring.tail
  action : s.eng.state = .quiescing → ∀ m, s.eng.action = some (.rollback m) → m < s.ring.head + s.layout.capacity
  rolling : s.eng.state = .rolling → ∀ p, s.replay = some p → p.target < s.ring.head + s.layout.capacity
  scan : s.eng.state = .scanning → ∀ c, s.scan = some c → c.WithinRing s.layout.capacity
  off : s.eng.state = .off → s.ring.head = 0 ∧ s.ring.frontier = 0 ∧ s.ring.tail = 0
  opening : s.eng.state = .opening → s.ring.head = 0 ∧ s.ring.tail ≤ 1 ∧
    (s.segments = [] ∨ s.watch.occasion ≠ .idle → s.ring.tail = 0)

/-- Nothing is left to be done in the event that has just ended: no entry is to be decided, the waiting request waits
for a full queue alone, and neither quiescing nor the soft reset is to end (R64, R66, R132, R193). -/
structure State.Settled (s : State) : Prop where
  ready : s.firstReady = none
  waiting : s.hold.waiting = none ∨ Config.holdPlaces ≤ s.hold.queue.length
  quiesce : s.quiesceDue = false
  reset : s.resetDue = false

/-- While RESETTING nothing is held, the replay and scan units are idle, and the occupied slots are abandoned ones with a request
outstanding (R86, R89, R146, R159, R193). -/
def State.ResettingQuiet (s : State) : Prop :=
  s.eng.state = .resetting → s.hold = { queue := [], waiting := none } ∧ s.replay = none ∧ s.scan = none ∧
    ∀ j ∈ s.slots, j.abandoned = true ∧ j.busy = true

/-- The operations that one event completes have been completed: no QUIESCING without an occupied slot and no RESETTING
without an internal request (R130, R132, R193). -/
def State.NothingDue (s : State) : Prop := s.quiesceDue = false ∧ s.resetDue = false

/-- The state after a command that changes nothing but the frame on the port (R182, R184). -/
def State.answered (s : State) (res : MgmtResult) (data : List Byte) : State :=
  { s with
    eventNo := s.eventNo + 1
    port := { s.port with frame := some { result := res, data := data, removesEvent := false } } }

/-- The state in which the response that carries a tag is delivered: a new event, with the tag free (R177, R178). -/
def State.taking (s : State) (t : DownTag) : State :=
  { s with
    eventNo := s.eventNo + 1
    down := { s.down with issued := s.down.issued.filter fun q => q.tag ≠ t } }

/-- The request that an upstream request becomes when it is classified (R44, R57, R61). -/
def State.heldRequest (s : State) (r : UpRequest) : Request :=
  { tag := r.tag
    kind := match r.op with
      | .write d => .write d
      | .read => if s.addressing.viewFlag r.addr then .viewRead else .read
    line := s.addressing.canonical r.addr
    mask := r.mask
    watched := decide (s.eng.state ≠ .off) && decide (s.addressing.canonical r.addr = s.layout.controlLine) }

/-- The state in which a request that has just been taken is classified: a new event, its tag in use (R53 step 1). -/
def State.withTag (s : State) (r : UpRequest) : State :=
  { s with eventNo := s.eventNo + 1, up := { s.up with tags := s.up.tags ++ [r.tag] } }

/-- Requests that one event hands: issued in that event, in the order given (log 3), when memory is ready and no older request waits, and
otherwise waiting to be issued (R177). -/
def DownLink.handed (d : DownLink) (l : List DownRequest) : DownLink :=
  if d.ready = true ∧ d.toIssue = [] then { d with issued := d.issued ++ l } else { d with toIssue := d.toIssue ++ l }

/-- A request forwarded on arrival: issued in the event of its decision, or the pending forward until it is (R176, R178). -/
def State.forwardedAs (u : State) (r : UpRequest) (line : Addr) (atOnce : Bool) : State :=
  { u with
    up := if atOnce then u.up else { u.up with pendingForward := some r.tag }
    down := u.down.handed [{
      tag := r.tag.zeroExtend 7, op := r.op, addr := line, mask := r.mask, owner := .forward, event := u.eventNo }] }

/-- A request is issued in the event in which it is handed: memory is ready and no older request waits (R176, R177). -/
def State.issuesAtOnce (s : State) : Bool := s.down.ready && s.down.toIssue.isEmpty

/-- Entries whose reason is one of `l` are to be decided (R65, R88). -/
def decidableNow (l : List Wait) (q : List Entry) : List Entry :=
  q.map fun e => if e.wait ∈ l then { e with wait := .ready } else e

/-- The record of a BROKEN event in an engine state (R86, R111, R137, R189). -/
def State.brokenRecord (s : State) (state : EngineState) (c : Cause) : EventRecord :=
  let code := match c with
    | .oldDataFault => 1 | .recordFault => 2 | .stallExpired => 3 | .ringFullBreak => 4 | .controlFault => 5
    | .rollbackFault => 6 | .recoveredAfterStop => 7
  { kind := .broken, state := state, seq := some s.ring.frontier, detail := some code
    count := some (s.ring.tail - s.ring.frontier) }

/-- What the recording of a broken cause makes of the journal, the event queue and the control block, and what it leaves alone: `u` is
`s` after it, and `state` what the BROKEN event carries (R86, R87). -/
structure State.JournalBroken (s u : State) (c : Cause) (state : EngineState) : Prop where
  ring : u.ring = s.ring
  segments : u.segments = s.segments
  touch : u.touch = { entries := [], saturated := false }
  slots : ∀ j, j ∈ u.slots ↔ ∃ k ∈ s.slots, k.busy = true ∧ j = { k with abandoned := true, held := none }
  stall : u.stall = none
  waiting : u.hold.waiting = s.hold.waiting
  watch : u.watch = if s.watch.outstanding then { s.watch with updatePending := true } else { s.watch with outstanding := true }
  events : s.port.mask.getLsbD 3 = true → s.port.events.length < 32 → u.port.events = s.port.events ++ [s.brokenRecord state c]
  masked : s.port.mask.getLsbD 3 = false → u.port = s.port
  port : u.port.mask = s.port.mask ∧ u.port.frame = s.port.frame
  rest : u.timer = s.timer ∧ u.views = s.views ∧ u.replay = s.replay ∧ u.scan = s.scan ∧ u.up = s.up ∧ u.layout = s.layout ∧
    u.addressing = s.addressing ∧ u.regions = s.regions ∧ u.aborted = s.aborted ∧ u.rstn = s.rstn ∧ u.eventNo = s.eventNo ∧
    u.pending = s.pending

/-- `u` is `s` after an entry into BROKEN with a cause, before its held entries are decided: what R85 and R86 make of the engine, the
journal, the held entries, the event queue and the control block. -/
structure State.BrokenFrom (s u : State) (c : Cause) : Prop where
  eng : u.eng = { s.eng with state := .broken, cause := some (s.eng.cause.getD c) }
  journal : s.JournalBroken u c .broken
  queue : u.hold.queue = s.hold.queue.map fun e =>
    match e.wait with
    | .engine | .slot | .space | .record _ => { e with wait := .ready }
    | .line | .place | .issue | .ready => e
  down : u.down = if s.watch.outstanding then s.down else s.down.handed [{
    tag := s.down.freeTag, op := .write u.statusLine, addr := s.layout.controlLine, mask := statusMask, owner := .status
    event := s.eventNo }]

/-- The requests that forward held entries, in queue order, handed in the event of `s` (R74, R177, R178). -/
def State.forwardsOf (s : State) (l : List Entry) : List DownRequest := l.map fun e =>
  { tag := e.req.tag.zeroExtend 7
    op := (match e.req.kind with | .write d => .write d | .read | .viewRead => .read)
    addr := e.req.line, mask := e.req.mask, owner := .forward, event := s.eventNo }

/-- The hold queue once the entries of l have been issued: they leave it one after another, and the next entry for the line of each
becomes decidable (R65, R67). -/
def issuedFrom (l q : List Entry) : List Entry :=
  l.foldl (fun q e => wakeLine e.req.line (q.filter fun x => x.req.tag ≠ e.req.tag)) q

/-- The entries held RECORD for a record that p names. -/
def recordEntries (p : Nat → Bool) (q : List Entry) : List Entry := q.filter fun e =>
  match e.wait with
  | .record m => p m
  | .line | .engine | .slot | .space | .place | .issue | .ready => false

/-- `u` is `s` after a fault that records a cause in QUIESCING with COMMIT or STOP pending (R87, R133): the RECORD entries are
forwarded (and leave the queue where they are issued at once: R67), the entries held ENGINE, SLOT or SPACE stay held, and the
engine stays QUIESCING. -/
structure State.QuiesceFaulted (s u : State) (c : Cause) : Prop where
  eng : u.eng = { s.eng with cause := some c }
  journal : s.JournalBroken u c .quiescing
  queue : u.hold.queue = if s.issuesAtOnce then issuedFrom (recordEntries (fun _ => true) s.hold.queue) s.hold.queue
    else s.hold.queue.map fun e =>
      match e.wait with
      | .record _ => { e with wait := .issue }
      | .line | .engine | .slot | .space | .place | .issue | .ready => e
  down : ∃ l, u.down = s.down.handed (s.forwardsOf (recordEntries (fun _ => true) s.hold.queue) ++ l) ∧
    l.map (fun x => (x.owner, x.op, x.addr, x.mask)) =
      if s.watch.outstanding then [] else [(.status, .write u.statusLine, s.layout.controlLine, statusMask)]

/-- `s` once a marker is accepted: the seq is T, the segment list gains its entry, the touch table is emptied, the MARK record takes a
slot, RING_HIGH is raised when occupancy reaches the high-water threshold with the flag armed, and the header line is handed with
its check (R3, R7, R17, R22, R29). -/
def State.marked (s : State) (source : Source) (tag : MarkTag) : State :=
  let h : Header := { kind := .mark, dup := false, source := source, region := 0, epoch := s.eng.epoch, seq := s.ring.tail
                      line := 0, tag := tag, segmentStart := s.ring.tail }
  let occupancy := s.ring.tail + 1 - s.ring.head
  let high := decide (s.layout.highWater * 2 ^ s.layout.order / 8 ≤ occupancy)
  let m : State := { s with
    ring := { s.ring with tail := s.ring.tail + 1, highArmed := !high }
    segments := s.segments ++ [{ seq := s.ring.tail, tag := tag, source := source }]
    touch := { entries := [], saturated := false }
    slots := s.slots ++ [{ header := h, oldData := .notNeeded, headerWrite := .outstanding, dataWrite := .notIssued, held := none
                           abandoned := false }] }
  let t := if high = true ∧ s.ring.highArmed = true
    then m.raise .ringHigh (some (s.ring.tail + 1)) (some occupancy) none else m
  t.handOwn (.write (headerLine h 0)) (.ofNat 40 (s.layout.ringBase.toNat + 128 * (s.ring.tail % 2 ^ s.layout.order)))
    (BitVec.allOnes 64) (.recordHeader s.ring.tail)

/-- The two reads of the ring slot of each seq of `seqs` are handed in turn, the header read ahead of the data read: it takes the
lower tag (R22, R147, R160; log 44). -/
def State.slotReads (s : State) (header data : Nat → Owner) (seqs : List Nat) : State :=
  seqs.foldl (fun u q => State.handOwn (State.handOwn u
    .read (s.layout.headerAddr q) (BitVec.allOnes 64) (header q))
    .read (s.layout.dataAddr q) (BitVec.allOnes 64) (data q)) s

/-- The replay unit holds k; while a seq above the target is unread, one place more is taken for it and its two reads are
handed (R147). -/
def State.replayReads (s : State) (k : Replay) : State :=
  if k.target < k.readCursor then
    State.handOwn (State.handOwn { s with replay := some { k with
        places := k.places ++ [{ seq := k.readCursor, header := .outstanding, data := .outstanding, writing := false }]
        readCursor := k.readCursor - 1 } }
      .read (s.layout.headerAddr k.readCursor) (BitVec.allOnes 64) (.replayHeader k.readCursor))
      .read (s.layout.dataAddr k.readCursor) (BitVec.allOnes 64) (.replayData k.readCursor)
  else { s with replay := some k }

/-- The scan unit holds k, with one place more for the seq at the read cursor, whose two reads are handed (R160). -/
def State.scanReads (s : State) (k : Scan) : State :=
  State.handOwn (State.handOwn { s with scan := some { k with
      places := k.places ++ [{ seq := k.readCursor, header := .outstanding, data := .outstanding }]
      readCursor := k.readCursor + 1 } }
    .read (s.layout.headerAddr k.readCursor) (BitVec.allOnes 64) (.scanHeader k.readCursor))
    .read (s.layout.dataAddr k.readCursor) (BitVec.allOnes 64) (.scanData k.readCursor)

/-- Settling the place x of the seq at the scan cursor turns the scan c into k (R160, R161; log 23): the seek advances over a record of
the epoch with a later seq, an accepted record is taken into the run, which C records end, and anything else ends it. -/
def Scan.SettlesTo (c : Scan) (x : ScanPlace) (capacity : Nat) (k : Scan) : Prop :=
  let q := x.seq
  let intact (h d : Line) := (lineField h 0 1 = 1 ∨ lineField h 0 1 = 2 ∨ lineField h 0 1 = 3) ∧
    lineField h 4 4 = c.epoch.toNat ∧ (recordCheck (lineField h 0 1) h d).toNat = lineField h 60 4
  let chained (h : Line) := if lineField h 0 1 = 2 then (match c.runStart with
      | some b => lineField h 28 8 = b
      | none => lineField h 28 8 < c.startSeq)
    else lineField h 28 8 = q
  let later := c.phase = .seek ∧ ∃ h d, x.header = .ok h ∧ x.data = .ok d ∧ intact h d ∧ q < lineField h 8 8
  let accepted (h d : Line) := x.header = .ok h ∧ x.data = .ok d ∧ intact h d ∧ lineField h 8 8 = q ∧
    (lineField h 0 1 = 1 → q = 0) ∧ chained h
  let moved (k : Scan) : Scan :=
    { k with
      phase := .run, cursor := q + 1, stopped := decide (c.startSeq + capacity ≤ q + 1)
      places := c.places.filter fun y => y.seq ≠ q }
  (∃ h d, later ∧ x.header = .ok h ∧ x.data = .ok d ∧
    let next := max (q + 1) (lineField h 8 8 + 1 - capacity)
    k = { c with
      startSeq := next, cursor := next, readCursor := max c.readCursor next
      places := c.places.filter fun y => next ≤ y.seq ∨ y.header = .outstanding ∨ y.data = .outstanding }) ∨
  (¬ later ∧ ∃ h d, accepted h d ∧ lineField h 0 1 = 2 ∧
    (((∃ e ∈ c.table.entries, e.line = .ofNat 40 (lineField h 16 5)) ∧ k = moved c) ∨
     ((∀ e ∈ c.table.entries, e.line ≠ .ofNat 40 (lineField h 16 5)) ∧
       ((c.table.saturated = true ∧ k = moved c) ∨
        (c.table.saturated = false ∧ c.table.entries.length < 8192 ∧ k = moved { c with table := { c.table with
          entries := c.table.entries ++ [{ line := .ofNat 40 (lineField h 16 5), seq := q }] } }) ∨
        (c.table.saturated = false ∧ 8192 ≤ c.table.entries.length ∧ k = moved { c with
          table := { c.table with saturated := true }, fullAt := q }))))) ∨
  (¬ later ∧ ∃ h d, accepted h d ∧ lineField h 0 1 ≠ 2 ∧
    let entry : Segment := { seq := q, tag := .ofNat 32 (lineField h 24 4), source := readSource h }
    let fresh := { c with runStart := some q, table := { entries := [], saturated := false } }
    ((c.built.length < 16 ∧ k = moved { fresh with built := c.built ++ [entry] }) ∨
     (∃ b bs, c.built = b :: bs ∧ 16 ≤ c.built.length ∧ k = moved { fresh with
       built := bs ++ [entry], dropped := c.dropped + 1, newestDropped := b.seq }))) ∨
  (¬ later ∧ (∀ h d, ¬ accepted h d) ∧ k = { c with phase := .run, stopped := true })

/-- The response a command brings from memory, if it is one. -/
def responseOf : Instr → Option MemResponse
  | .forwardedResponse r | .oldDataResponse r | .recordWriteAck r | .statusWriteResponse r | .startControlReadResponse r
  | .recoverControlReadResponse r | .viewReaderResponse r | .replayReadResponse r | .restoringWriteAck r
  | .scanReadResponse r | .strayResponse r => some r
  | .upstreamRequest _ | .upstreamResponseReady | .downstreamIssue _ | .markTimerExpiry | .stallTimerExpiry
  | .powerOnReset | .frameEnd _ | .readId | .readStatus | .readEvent | .readSegments | .readRegion _ | .setLayout _
  | .setAddressing _ _ | .writeRegion _ | .setTimer _ _ _ | .setEventMask _ | .start | .commit | .mark _ | .rollback _ _
  | .stop | .recover | .softReset | .unknown _ | .openRecordAssign | .quiesceEnd | .replayStart | .rollbackEnd
  | .closingEnd | .scanEnd | .softResetEnd | .rstnFalls | .responseReadyWithheld => none

/-- A run of a command list from a state stops at no fault and no refusal. -/
def State.runsTo (s : State) (n : Nat) (t : State) : Prop := Host.Core.run Sys2Proof.core n s = .next t

end Sys2Proof.Machine
end

