-- ==== Sys2Proof/WellFormed.lean ====
section
/-! DEFINITION. What a command must meet to be one the outside can send. The types already bound every operand; what
is left is which tags a kind of response can carry (R178) and which byte is no command code (R183). -/

namespace Sys2Proof

/-- A tag of a forwarded request (R178). -/
def forwardedTag (t : DownTag) : Bool := decide (t.toNat < 64)

/-- A tag of the device's own requests (R178). -/
def internalTag (t : DownTag) : Bool := decide (64 ≤ t.toNat)

/-- The check on each command. -/
def Instr.wellFormed : Instr → Bool
  | .forwardedResponse r => forwardedTag r.tag
  | .oldDataResponse r | .recordWriteAck r | .statusWriteResponse r | .startControlReadResponse r
  | .recoverControlReadResponse r | .viewReaderResponse r | .replayReadResponse r | .restoringWriteAck r
  | .scanReadResponse r => internalTag r.tag
  | .unknown c => (argCount c).isNone
  | .upstreamRequest _ | .upstreamResponseReady | .downstreamIssue _ | .strayResponse _ | .markTimerExpiry
  | .stallTimerExpiry | .powerOnReset | .frameEnd _ | .readId | .readStatus | .readEvent | .readSegments | .readRegion _
  | .setLayout _ | .setAddressing _ _ | .writeRegion _ | .setTimer _ _ _ | .setEventMask _ | .start | .commit | .mark _
  | .rollback _ _ | .stop | .recover | .softReset | .openRecordAssign | .quiesceEnd | .replayStart | .rollbackEnd
  | .closingEnd | .scanEnd | .softResetEnd | .rstnFalls | .responseReadyWithheld => true

end Sys2Proof
end

