-- ==== Sys2Proof/Certificates/Slice0/Obligations.lean ====
section
/-! DEFINITION. The statements for the provers. Each docstring names the rules of spec/ it formalises, and the log entry
where a clause rests on a choice of the model. -/

open Sys2Proof Sys2Proof.Machine

/-! ## Steps, pins and reset -/

/-- Log 1: a step takes the command at the front of the queue and leaves the rest. -/
def Obligations.StepRunsFrontCommand : Prop :=
  ∀ (c : Instr) (rest : List Instr) (s : State),
    step { s with pending := c :: rest } = exec c { s with pending := rest }

/-- R179, log 6: every command answers a next state and leaves the queue of commands alone, in every state, but for a
response to a request that memory has not taken: memory then breaks its contract, and the model faults. -/
def Obligations.EveryCommandCompletes : Prop :=
  ∀ (c : Instr) (s : State),
    ((∀ r, responseOf c = some r → s.rstn = false ∨ s.down.issuedWith r.tag ≠ none ∨ s.down.inUse r.tag = false) →
      ∃ t, exec c s = .next t ∧ t.pending = s.pending) ∧
    (∀ r, responseOf c = some r → s.rstn = true → s.down.issuedWith r.tag = none → s.down.inUse r.tag = true →
      exec c s = .fault .memoryContract)

/-- R34, R36, R82, with the model's tick (log 8, 11): a step on an empty queue is one µs of the timer that runs,
where one at most runs. It counts
a phase or a counter on, or it is the timer's expiry. -/
def Obligations.TimersTick : Prop :=
  ∀ s : State, s.pending = [] → s.rstn = true →
    (s.stall = none → s.timer.enabled = false ∨ s.eng.state = .off ∨ s.eng.state = .resetting →
      step s = .next { s with eventNo := s.eventNo + 1 }) ∧
    (s.stall = none → s.timer.enabled = true → s.eng.state ≠ .off → s.eng.state ≠ .resetting →
      (s.timer.phase + 1 < s.timer.tick.micros →
        step s = .next { s with eventNo := s.eventNo + 1, timer := { s.timer with phase := s.timer.phase + 1 } }) ∧
      (s.timer.tick.micros ≤ s.timer.phase + 1 → s.timer.counter + 1 < s.timer.compare →
        step s = .next { s with
          eventNo := s.eventNo + 1, timer := { s.timer with phase := 0, counter := s.timer.counter + 1 } }) ∧
      (s.timer.tick.micros ≤ s.timer.phase + 1 → s.timer.compare ≤ s.timer.counter + 1 →
        step s = exec .markTimerExpiry s)) ∧
    (∀ n, s.stall = some n → s.timer.enabled = false → s.eng.state = .stalled →
      (n + 1 < s.layout.stallLimit → step s = .next { s with eventNo := s.eventNo + 1, stall := some (n + 1) }) ∧
      (s.layout.stallLimit ≤ n + 1 → step s = exec .stallTimerExpiry s))

/-- R16, R21, R28, R37, R42, R47, R52, R90, R105, R112, R121, R181, R192, R194; the model's choices of log 11, 12, 14, 26, 27, 36, 37: a
power-on reset brings back, from every state, the state after reset, with every value the spec gives it; nothing is answered, and
the commands still waiting stay. -/
def Obligations.PowerOnReset : Prop :=
  (∀ s : State, exec .powerOnReset s = .next { State.reset with
    up := { State.reset.up with respReady := s.up.respReady, sent := s.up.sent }
    down := { State.reset.down with ready := s.down.ready }
    eventNo := s.eventNo + 1
    pending := s.pending }) ∧
  (let s := State.reset
   s.eng.state = .off ∧ s.eng.epoch = 0 ∧ s.eng.cause = none ∧ s.eng.action = none ∧ s.eng.pendingTarget = none ∧
   s.ring = { head := 0, frontier := 0, tail := 0, highArmed := true, fullReported := false } ∧
   s.segments = [] ∧ s.touch = { entries := [], saturated := false } ∧ s.slots = [] ∧ s.stall = none ∧
   s.timer.tick = .ms1 ∧ s.timer.compare = 65535 ∧ s.timer.enabled = false ∧ s.timer.counter = 0 ∧ s.timer.markCount = 0 ∧
   s.layout = { ringBase := 0, order := 0, controlLine := 0, policy := .stall, stallLimit := 1000, stride := 64, highWater := 6 } ∧
   s.addressing = { fold := 0, viewBit := none } ∧
   (∀ r ∈ s.regions.toList, r = { enabled := false, base := 0, order := 12, mode := .pass }) ∧
   s.hold = { queue := [], waiting := none } ∧ s.views = [] ∧ s.watch.outstanding = false ∧ s.watch.updatePending = false ∧
   s.replay = none ∧ s.scan = none ∧ s.up.tags = [] ∧ s.up.pendingForward = none ∧ s.up.respWaiting = [] ∧
   s.down.toIssue = [] ∧ s.down.issued = [] ∧
   s.port = { frame := none, events := [], overflow := false, mask := 0xFFFF } ∧
   s.upReady = true ∧ s.alertLow = false)

/-- R181, R183, R194, log 13: RSTN falling abandons the frame and nothing else, withholds upstream ready, releases ALERT and leaves
SDO high-impedance. While it is low every command but the pins' own leaves the device as it is. -/
def Obligations.RstnLow : Prop :=
  (∀ s : State, ∃ t, exec .rstnFalls s = .next t ∧ t = { s with rstn := false, port := { s.port with frame := none } } ∧
    t.upReady = false ∧ t.alertLow = false ∧ ∀ high edge, t.sdo high edge = none) ∧
  (∀ (c : Instr) (s : State), s.rstn = false → c ≠ .powerOnReset → c ≠ .rstnFalls → c ≠ .upstreamResponseReady →
    c ≠ .responseReadyWithheld → exec c s = .next s)

/-! ## The management port: readback -/

/-- R185, with the layout of R51: READ_ID is answered ACCEPTED with the vendor code, the part code and the revision, and
READ_REGION with the nine bytes of the entry as it stands, or BAD_ARG for an index above 15; in RESETTING both are BUSY. -/
def Obligations.ReadIdAndRegion : Prop :=
  ∀ s : State, s.rstn = true →
    (s.eng.state ≠ .resetting → exec .readId s = .next (s.answered .accepted [0x5A, 0x40, 0x26, 0x01])) ∧
    (s.eng.state = .resetting → exec .readId s = .next (s.answered .busy [0, 0, 0, 0])) ∧
    (∀ (i : Byte) (h : i.toNat < 16), s.eng.state ≠ .resetting →
      exec (.readRegion i) s = .next (s.answered .accepted
        [i, if s.regions[i.toNat].enabled then 1 else 0,
          match s.regions[i.toNat].mode with | .pass => 0 | .journaled => 1 | .frozen => 2,
          .ofNat 8 s.regions[i.toNat].order,
          s.regions[i.toNat].base.extractLsb' 0 8, s.regions[i.toNat].base.extractLsb' 8 8,
          s.regions[i.toNat].base.extractLsb' 16 8, s.regions[i.toNat].base.extractLsb' 24 8,
          s.regions[i.toNat].base.extractLsb' 32 8])) ∧
    (∀ i : Byte, 15 < i.toNat → s.eng.state ≠ .resetting →
      exec (.readRegion i) s = .next (s.answered .badArg (List.replicate 9 0))) ∧
    (∀ i : Byte, s.eng.state = .resetting → exec (.readRegion i) s = .next (s.answered .busy (List.replicate 9 0))) ∧
    (∀ (i : Nat) (h : i < 16), State.reset.regions[i] = { enabled := false, base := 0, order := 12, mode := .pass })

/-- R187, with the codes of R184 and R137: READ_STATUS is answered ACCEPTED in every engine state with the 56 bytes of the
snapshot, field by field. -/
def Obligations.StatusSnapshot : Prop :=
  ∀ s : State, s.rstn = true → s.Bounded → s.ring.head < 2 ^ 64 → s.ring.frontier < 2 ^ 64 → s.ring.tail < 2 ^ 64 →
    (∀ m, s.eng.action = some (.rollback m) → m < 2 ^ 64) → (∀ m, s.eng.pendingTarget = some m → m < 2 ^ 64) →
    (∀ b, s.addressing.viewBit = some b → b < 256) →
    ∃ d, exec .readStatus s = .next (s.answered .accepted d) ∧ d.length = 56 ∧
      argField d 0 1 = (match s.eng.state with
        | .off => 0 | .active => 1 | .broken => 2 | .rolling => 3 | .opening => 4 | .stalled => 5 | .quiescing => 6
        | .closing => 7 | .scanning => 8 | .resetting => 9) ∧
      argField d 1 1 = (match s.eng.cause with
        | none => 0 | some .oldDataFault => 1 | some .recordFault => 2 | some .stallExpired => 3 | some .ringFullBreak => 4
        | some .controlFault => 5 | some .rollbackFault => 6 | some .recoveredAfterStop => 7) ∧
      argField d 2 1 = (if s.touch.saturated then 1 else 0) + (if s.port.overflow then 2 else 0)
        + (if s.eng.pendingTarget.isSome then 4 else 0) ∧
      argField d 3 1 = (match s.eng.action with
        | none => 0 | some .commit => 1 | some .stop => 2 | some (.rollback _) => 3) ∧
      argField d 4 4 = s.eng.epoch.toNat ∧
      argField d 8 8 = s.ring.head ∧ argField d 16 8 = s.ring.frontier ∧ argField d 24 8 = s.ring.tail ∧
      argField d 32 8 = (match s.eng.action with | some (.rollback m) => m | _ => 0) ∧
      argField d 40 8 = s.eng.pendingTarget.getD 0 ∧
      argField d 48 2 = s.touch.entries.length ∧ argField d 50 1 = s.hold.queue.length ∧
      argField d 51 1 = s.segments.length ∧ argField d 52 1 = s.port.events.length ∧
      argField d 53 2 = s.addressing.fold.toNat ∧ argField d 55 1 = s.addressing.viewBit.getD 255

/-- R188, with the source codes of R4 note 2: READ_SEGMENTS is answered ACCEPTED out of RESETTING with the segment count and, oldest
first, the seq, tag and source code of each entry. -/
def Obligations.ReadSegments : Prop :=
  ∀ s : State, s.rstn = true → s.eng.state ≠ .resetting → s.Bounded →
    (∀ e ∈ s.segments, e.seq < 2 ^ 64 ∧ ∀ c, e.source = .other c → c < 256) →
    ∃ d, exec .readSegments s = .next (s.answered .accepted d) ∧ d.length = 1 + 13 * s.segments.length ∧
      argField d 0 1 = s.segments.length ∧
      ∀ (i : Nat) (h : i < s.segments.length),
        argField d (1 + 13 * i) 8 = s.segments[i].seq ∧ argField d (9 + 13 * i) 4 = s.segments[i].tag.toNat ∧
        argField d (13 + 13 * i) 1 = (match s.segments[i].source with
          | .none => 0 | .start => 1 | .commit => 2 | .management => 3 | .watch => 4 | .timer => 5 | .recover => 6
          | .other c => c)

/-- R189, R191, with the kind codes of R189 and the state codes of R184: READ_EVENT copies the oldest record, or zeros, and the end
of a fully clocked frame is to remove it. -/
def Obligations.ReadEventCopiesOldest : Prop :=
  ∀ s : State, s.rstn = true → s.eng.state ≠ .resetting →
    (s.port.events = [] → exec .readEvent s = .next (s.answered .accepted (List.replicate 20 0))) ∧
    (∀ r rs, s.port.events = r :: rs → rs.length < 32 → (∀ v, r.seq = some v → v < 2 ^ 64) →
      (∀ v, r.detail = some v → v < 2 ^ 32) → (∀ v, r.count = some v → v < 2 ^ 32) →
      ∃ d, exec .readEvent s = .next { s with
          eventNo := s.eventNo + 1
          port := { s.port with frame := some { result := .accepted, data := d, removesEvent := true } } } ∧
        d.length = 20 ∧
        argField d 0 1 = (match r.kind with
          | .ringHigh => 1 | .ringFull => 2 | .stallExpired => 3 | .broken => 4 | .saturated => 5 | .markRefused => 6
          | .releaseClamped => 7 | .releaseStale => 8 | .watchMalformed => 9 | .openDone => 10 | .openFailed => 11
          | .rollbackDone => 12 | .recoverDone => 13 | .closed => 14 | .tagReuse => 15 | .resetDone => 16) ∧
        argField d 1 1 = (match r.state with
          | .off => 0 | .active => 1 | .broken => 2 | .rolling => 3 | .opening => 4 | .stalled => 5 | .quiescing => 6
          | .closing => 7 | .scanning => 8 | .resetting => 9) ∧
        argField d 2 1 = (if r.seq.isSome then 1 else 0) + (if r.detail.isSome then 2 else 0)
          + (if r.count.isSome then 4 else 0) ∧
        argField d 3 1 = rs.length ∧ argField d 4 8 = r.seq.getD 0 ∧ argField d 12 4 = r.detail.getD 0 ∧
        argField d 16 4 = r.count.getD 0)

/-- R183, R191: the end of a frame removes the record that a fully clocked READ_EVENT copied, and clears the overflow flag
with the last record; it ends every other frame with no other effect. -/
def Obligations.FrameEndRemovesTheRecordRead : Prop :=
  ∀ (s : State) (n : Nat), s.rstn = true →
    (∀ f, s.port.frame = some f → f.removesEvent = true → 20 ≤ n →
      exec (.frameEnd n) s = .next { s with
        eventNo := s.eventNo + 1
        port := { s.port with
          frame := none
          events := s.port.events.tail
          overflow := if s.port.events.tail = [] then false else s.port.overflow } }) ∧
    (s.port.frame = none ∨ n < 20 ∨ (∃ f, s.port.frame = some f ∧ f.removesEvent = false) →
      exec (.frameEnd n) s = .next { s with eventNo := s.eventNo + 1, port := { s.port with frame := none } })

/-- R190: an event is appended with the engine state, dropped with the overflow flag set, or masked; ALERT follows the queue. -/
def Obligations.EventsAreQueued : Prop :=
  ∀ (s : State) (k : EventKind) (q d n : Option Nat),
    (s.port.mask.getLsbD (k.code - 1) = true → s.port.events.length < 32 →
      s.raise k q d n = { s with port := { s.port with
        events := s.port.events ++ [{ kind := k, state := s.eng.state, seq := q, detail := d, count := n }] } }) ∧
    (s.port.mask.getLsbD (k.code - 1) = true → 32 ≤ s.port.events.length →
      s.raise k q d n = { s with port := { s.port with overflow := true } }) ∧
    (s.port.mask.getLsbD (k.code - 1) = false → s.raise k q d n = s) ∧
    (s.alertLow = true ↔ s.rstn = true ∧ s.port.events ≠ [])

/-- R182, R183, R184, with log 34 and 43: while RESETTING every known command but READ_STATUS is answered BUSY, with zeros for its
data, and changes nothing else (READ_SEGMENTS's data is then its one count byte: log 34). A byte that is no code is answered UNKNOWN
in every engine state. SDO carries the result's code, then the data, then zeros, each byte most significant bit first; before a
command is taken it carries zeros, with SEL low and no frame in progress too (log 43), and with SEL high it is high-impedance. -/
def Obligations.BusyOrUnknown : Prop :=
  (∀ (s : State), s.rstn = true → s.eng.state = .resetting →
    (∀ c, c ∈ [Instr.start, .commit, .stop, .recover, .softReset] → exec c s = .next (s.answered .busy [])) ∧
    (∀ a, exec (.setLayout a) s = .next (s.answered .busy [])) ∧
    (∀ f v, exec (.setAddressing f v) s = .next (s.answered .busy [])) ∧
    (∀ a, exec (.writeRegion a) s = .next (s.answered .busy [])) ∧
    (∀ p c e, exec (.setTimer p c e) s = .next (s.answered .busy [])) ∧
    (∀ m, exec (.setEventMask m) s = .next (s.answered .busy [])) ∧
    exec .readId s = .next (s.answered .busy (List.replicate 4 0)) ∧
    exec .readEvent s = .next (s.answered .busy (List.replicate 20 0)) ∧
    exec .readSegments s = .next (s.answered .busy (List.replicate 1 0)) ∧
    (∀ i, exec (.readRegion i) s = .next (s.answered .busy (List.replicate 9 0))) ∧
    (∀ m, exec (.mark m) s = .next (s.answered .busy (List.replicate 8 0))) ∧
    (∀ k q, exec (.rollback k q) s = .next (s.answered .busy (List.replicate 8 0)))) ∧
  (∀ (c : Byte) (s : State), s.rstn = true → exec (.unknown c) s = .next (s.answered .unknown [])) ∧
  (∀ s : State, s.rstn = true →
    (∀ f i, s.port.frame = some f → i < 8 →
      s.sdo false i = some ((BitVec.ofNat 8 (match f.result with
        | .accepted => 0 | .busy => 1 | .badState => 2 | .badArg => 3 | .badLayout => 4 | .listFull => 5 | .ringFull => 6
        | .badTarget => 7 | .unknown => 8)).getLsbD (7 - i)) ∧
      ∀ n, s.sdo false (8 * (n + 1) + i) = some ((f.data.getD n 0).getLsbD (7 - i))) ∧
    (∀ edge, s.port.frame = none → s.sdo false edge = some false) ∧ ∀ edge, s.sdo true edge = none)

/-- R182, R183, and the formats of R31, R35, R46, R51, R141, R186, R192: a frame's bytes, and the bits that spell them most
significant bit first, are read as the command they were made from, whatever follows them, and no shorter frame takes a
command. -/
def Obligations.FrameDecodesItsCommand : Prop :=
  ∀ (i : Instr) (b : List Byte), i.wellFormed = true → frameBytes i = some b →
    let bits := b.flatMap fun c => (List.range 8).map fun k => c.getLsbD (7 - k)
    (∀ rest, frameCommand (b ++ rest) = some i) ∧ (∀ k, k < b.length → frameCommand (b.take k) = none) ∧
    (∀ rest, sdiCommand (bits ++ rest) = some i) ∧ ∀ k, k < 8 * b.length → sdiCommand (bits.take k) = none

/-! ## The management port: configuration -/

/-- R19, with the fields of R186: SET_LAYOUT is BUSY in RESETTING, BAD_STATE in every other state but OFF, BAD_ARG with an
argument out of range, and otherwise replaces the seven settings, arms the high-water flag and is ACCEPTED. -/
def Obligations.SetLayout : Prop :=
  ∀ (a : LayoutArgs) (s : State), s.rstn = true →
    let inRange := a.ringBase.toNat % 4096 = 0 ∧ a.ringBase.toNat + 128 * 2 ^ a.order.toNat ≤ 2 ^ 40 ∧
      8 ≤ a.order.toNat ∧ a.order.toNat ≤ 20 ∧ a.controlLine.toNat % 64 = 0 ∧ a.policy.toNat ≤ 2 ∧
      1 ≤ a.stallLimit.toNat ∧ 1 ≤ a.stride.toNat ∧ 1 ≤ a.highWater.toNat ∧ a.highWater.toNat ≤ 8
    (s.eng.state = .resetting → exec (.setLayout a) s = .next (s.answered .busy [])) ∧
    (s.eng.state ≠ .off → s.eng.state ≠ .resetting → exec (.setLayout a) s = .next (s.answered .badState [])) ∧
    (s.eng.state = .off → ¬ inRange → exec (.setLayout a) s = .next (s.answered .badArg [])) ∧
    (s.eng.state = .off → inRange → exec (.setLayout a) s = .next (State.answered { s with
      layout := { ringBase := a.ringBase, order := a.order.toNat, controlLine := a.controlLine
                  policy := if a.policy = 0 then .stall else if a.policy = 1 then .refuse else .breakJournal
                  stallLimit := a.stallLimit.toNat, stride := a.stride.toNat, highWater := a.highWater.toNat }
      ring := { s.ring with highArmed := true } } .accepted [])) ∧
    State.reset.layout.order = 0

/-- R46: SET_ADDRESSING is BAD_STATE out of OFF and RESETTING; in OFF it is BAD_ARG in each of the four cases, with nothing
changed, and otherwise replaces the fold set and the view bit together. -/
def Obligations.SetAddressing : Prop :=
  ∀ (fold : BitVec 16) (view : Byte) (s : State), s.rstn = true →
    let refused := (∃ i, 10 ≤ i ∧ fold.getLsbD i = true) ∨ (view ≠ 0xFF ∧ (view.toNat < 30 ∨ 39 < view.toNat)) ∨
      (30 ≤ view.toNat ∧ view.toNat ≤ 39 ∧ fold.getLsbD (view.toNat - 30) = true) ∨
      ∃ r ∈ s.regions.toList, r.enabled = true ∧
        ∃ i, i < 10 ∧ r.base.getLsbD (30 + i) = true ∧ (fold.getLsbD i = true ∨ view.toNat = 30 + i)
    (s.eng.state ≠ .off → s.eng.state ≠ .resetting →
      exec (.setAddressing fold view) s = .next (s.answered .badState [])) ∧
    (s.eng.state = .off → refused → exec (.setAddressing fold view) s = .next (s.answered .badArg [])) ∧
    (s.eng.state = .off → ¬ refused → exec (.setAddressing fold view) s = .next (State.answered { s with
      addressing := { fold := fold.truncate 10, viewBit := if view = 0xFF then none else some view.toNat } } .accepted []))

/-- R51: WRITE_REGION is BAD_STATE out of OFF and RESETTING; in OFF it is BAD_ARG when a test fails, with nothing changed,
and otherwise replaces the entry named, and no other, whole. -/
def Obligations.WriteRegion : Prop :=
  ∀ (a : RegionArgs) (s : State), s.rstn = true →
    let valid := a.index.toNat < 16 ∧ a.enabled.toNat ≤ 1 ∧ a.mode.toNat ≤ 2 ∧ 12 ≤ a.order.toNat ∧ a.order.toNat ≤ 39 ∧
      a.base.toNat % 2 ^ a.order.toNat = 0 ∧
      (∀ i, i < 10 → s.addressing.fold.getLsbD i = true → a.base.getLsbD (30 + i) = false) ∧
      (∀ b, s.addressing.viewBit = some b → a.base.getLsbD b = false)
    (s.eng.state ≠ .off → s.eng.state ≠ .resetting → exec (.writeRegion a) s = .next (s.answered .badState [])) ∧
    (s.eng.state = .off → ¬ valid → exec (.writeRegion a) s = .next (s.answered .badArg [])) ∧
    (s.eng.state = .off → ∀ h : valid, exec (.writeRegion a) s = .next (State.answered { s with
      regions := s.regions.set a.index.toNat
        { enabled := decide (a.enabled = 1), base := a.base, order := a.order.toNat
          mode := if a.mode = 0 then .pass else if a.mode = 1 then .journaled else .frozen } h.1 } .accepted []))

/-- R35, R192: outside RESETTING SET_TIMER is BAD_ARG when an argument is out of range, and otherwise replaces the three
settings and restarts the counter and the tick's phase (those kept for a failing START too: log 37); SET_EVENT_MASK replaces the
mask, whatever its value. -/
def Obligations.SetTimerAndMask : Prop :=
  ∀ s : State, s.rstn = true → s.eng.state ≠ .resetting →
    (∀ (tick : Byte) (compare : BitVec 16) (enable : Byte),
      (3 < tick.toNat ∨ compare = 0 ∨ 1 < enable.toNat →
        exec (.setTimer tick compare enable) s = .next (s.answered .badArg [])) ∧
      (∀ p, (tick, p) ∈ [((0 : Byte), TickPeriod.us1), (1, .us10), (2, .us100), (3, .ms1)] → compare ≠ 0 →
        enable.toNat ≤ 1 → exec (.setTimer tick compare enable) s = .next (State.answered { s with
          timer := {
            tick := p, compare := compare.toNat, enabled := decide (enable = 1), counter := 0, phase := 0
            markCount := s.timer.markCount, startCounter := 0, startPhase := 0 } } .accepted []))) ∧
    (∀ m : BitVec 16, exec (.setEventMask m) s = .next (State.answered { s with
      port := { s.port with mask := m } } .accepted []))

/-- R19, R21, R47, R52, R192: but for a power-on reset, the layout, the addressing and the region table change by their own
command in OFF alone, and the event mask by SET_EVENT_MASK alone. -/
def Obligations.ConfigurationFrame : Prop :=
  ∀ (c : Instr) (s t : State), exec c s = .next t → c ≠ .powerOnReset →
    ((∀ a, c ≠ .setLayout a) ∨ s.eng.state ≠ .off → t.layout = s.layout) ∧
    ((∀ f v, c ≠ .setAddressing f v) ∨ s.eng.state ≠ .off → t.addressing = s.addressing) ∧
    ((∀ a, c ≠ .writeRegion a) ∨ s.eng.state ≠ .off → t.regions = s.regions) ∧
    ((∀ m, c ≠ .setEventMask m) → t.port.mask = s.port.mask)

/-! ## Engine commands -/

/-- R20: the placement checks pass just when the layout is set, the control-block line lies outside the ring area, and every
line of both has no fold-set or view bit and mode PASS. -/
def Obligations.PlacementChecks : Prop :=
  ∀ s : State, s.placementOk = true ↔
    s.layout.order ≠ 0 ∧
    ¬ (s.layout.ringBase.toNat ≤ s.layout.controlLine.toNat ∧
      s.layout.controlLine.toNat < s.layout.ringBase.toNat + 128 * 2 ^ s.layout.order) ∧
    s.addressing.touches s.layout.controlLine = false ∧ s.mode s.layout.controlLine = .pass ∧
    ∀ i, i < 2 * 2 ^ s.layout.order →
      s.addressing.touches (.ofNat 40 (s.layout.ringBase.toNat + 64 * i)) = false ∧
      s.mode (.ofNat 40 (s.layout.ringBase.toNat + 64 * i)) = .pass

/-- R124, with log 37: START is BUSY in RESETTING, BAD_STATE in every other state but OFF, BAD_LAYOUT when a placement check fails,
and is otherwise ACCEPTED: the engine enters OPENING with epoch id 1 and hands a full-mask READ of the control-block line; the
mark timer's counter is kept for a START that fails (R125). -/
def Obligations.Start : Prop :=
  ∀ s : State, s.rstn = true →
    (s.eng.state = .resetting → exec .start s = .next (s.answered .busy [])) ∧
    (s.eng.state ≠ .off → s.eng.state ≠ .resetting → exec .start s = .next (s.answered .badState [])) ∧
    (s.eng.state = .off → s.placementOk = false → exec .start s = .next (s.answered .badLayout [])) ∧
    (s.eng.state = .off → s.placementOk = true →
      exec .start s = .next ((State.answered { s with
        eng := { s.eng with state := .opening, epoch := 1, opener := .start }
        timer := { s.timer with startCounter := s.timer.counter, startPhase := s.timer.phase } } .accepted []).handOwn
          .read s.layout.controlLine (BitVec.allOnes 64) .startRead))

/-- R157, R159: RECOVER is turned away as START is, and otherwise ACCEPTED: the engine enters SCANNING with epoch id 1 and hands
a full-mask READ of the control-block line; the scan unit's phase is SEEK, its places are free and its lists empty. -/
def Obligations.Recover : Prop :=
  ∀ s : State, s.rstn = true →
    (s.eng.state = .resetting → exec .recover s = .next (s.answered .busy [])) ∧
    (s.eng.state ≠ .off → s.eng.state ≠ .resetting → exec .recover s = .next (s.answered .badState [])) ∧
    (s.eng.state = .off → s.placementOk = false → exec .recover s = .next (s.answered .badLayout [])) ∧
    (s.eng.state = .off → s.placementOk = true →
      ∃ c : Scan, exec .recover s = .next ((State.answered { s with
        eng := { s.eng with state := .scanning, epoch := 1 }, scan := some c } .accepted []).handOwn
          .read s.layout.controlLine (BitVec.allOnes 64) .recoverRead) ∧
        c.phase = .seek ∧ c.places = [] ∧ c.runStart = none ∧ c.built = [] ∧ c.dropped = 0 ∧
        c.table = { entries := [], saturated := false } ∧ c.stopped = false)

/-- R130, R134, R135, R141, R142: COMMIT, STOP and ROLLBACK accepted while a journal slot is occupied: the engine quiesces
with the pending action, and a stall timer stops. -/
def Obligations.QuiescingBegins : Prop :=
  ∀ s : State, s.rstn = true → s.Settled → s.slots ≠ [] →
    (∀ c a, (c, a) ∈ [(Instr.commit, Action.commit), (.stop, .stop)] →
      s.eng.state ∈ [EngineState.active, .stalled, .broken] →
      exec c s = .next (State.answered { s with
        eng := { s.eng with state := .quiescing, action := some a }, stall := none } .accepted [])) ∧
    (∀ (kind : Byte) (seq : BitVec 64) (m : Nat), s.eng.state ∈ [EngineState.active, .stalled] →
      (kind = 0 ∧ m = s.segmentStart) ∨
        (kind = 1 ∧ m = 0 ∧ s.ring.head = 0 ∧ s.segments.head?.map Segment.seq = some 0) ∨
        (kind = 2 ∧ m = seq.toNat ∧ ∃ e ∈ s.segments, e.seq = seq.toNat) →
      (∀ p, s.eng.pendingTarget = some p → m ≤ p) →
      exec (.rollback kind seq) s = .next (State.answered { s with
        eng := { s.eng with state := .quiescing, action := some (.rollback m) }, stall := none } .accepted (toBytes 8 m)))

/-- R37, R123, R126, R130, R132, R134, R135, R141, R142, R144: accepted with no occupied slot, the command goes on in the same
event: COMMIT opens the next epoch (the mark timer's counter restarts with the phase of its tick: R37), STOP closes, ROLLBACK rolls
to the target its kind names; each requests a status write that the engine waits for. -/
def Obligations.QuiescingEndsAtOnce : Prop :=
  ∀ s : State, s.rstn = true → s.Settled → s.slots = [] →
    (s.eng.state ∈ [EngineState.active, .stalled, .broken] →
      exec .commit s = .next (State.requestStatus (State.answered { s with
        eng := { s.eng with
          state := .opening, action := none, opener := .commit, cause := none, pendingTarget := none
          epoch := if s.eng.epoch = 0xFFFFFFFF#32 then 1 else s.eng.epoch + 1 }
        ring := { head := 0, frontier := 0, tail := 0, highArmed := true, fullReported := false }
        touch := { entries := [], saturated := false }
        segments := []
        timer := { s.timer with counter := 0, phase := 0 }
        stall := none } .accepted []) true) ∧
      exec .stop s = .next (State.requestStatus (State.answered { s with
        eng := { s.eng with state := .closing, action := none }, stall := none } .accepted []) true)) ∧
    (∀ (kind : Byte) (seq : BitVec 64) (m : Nat), s.eng.state ∈ [EngineState.active, .stalled] →
      (kind = 0 ∧ m = s.segmentStart) ∨
        (kind = 1 ∧ m = 0 ∧ s.ring.head = 0 ∧ s.segments.head?.map Segment.seq = some 0) ∨
        (kind = 2 ∧ m = seq.toNat ∧ ∃ e ∈ s.segments, e.seq = seq.toNat) →
      (∀ p, s.eng.pendingTarget = some p → m ≤ p) →
      exec (.rollback kind seq) s = .next (State.requestStatus (State.answered { s with
        eng := { s.eng with state := .rolling, action := none }, stall := none
        replay := some {
          target := m, cursor := s.ring.tail - 1, readCursor := s.ring.tail - 1, places := [], replayed := 0
          faults := 0, begun := false } } .accepted (toBytes 8 m)) true))

/-- R134, R135, R139, R142: COMMIT and STOP are BAD_STATE in OFF and BUSY in the long operations and RESETTING. ROLLBACK is
BAD_STATE in OFF and BROKEN, BUSY in the long operations and RESETTING, and elsewhere BAD_ARG for a kind above 2, and BAD_TARGET
for an epoch start no longer held, a seq not listed, or a target above the pending one. Nothing else changes. -/
def Obligations.QuiescingTurnedAway : Prop :=
  ∀ s : State, s.rstn = true →
    (∀ c, c ∈ [Instr.commit, .stop] →
      (s.eng.state = .off → exec c s = .next (s.answered .badState [])) ∧
      (s.eng.state ∈ [EngineState.opening, .quiescing, .rolling, .closing, .scanning, .resetting] →
        exec c s = .next (s.answered .busy []))) ∧
    (∀ (kind : Byte) (seq : BitVec 64),
      let turnedAway (r : MgmtResult) : Prop := exec (.rollback kind seq) s = .next (s.answered r (List.replicate 8 0))
      (s.eng.state ∈ [EngineState.off, .broken] → turnedAway .badState) ∧
      (s.eng.state ∈ [EngineState.opening, .quiescing, .rolling, .closing, .scanning, .resetting] → turnedAway .busy) ∧
      (s.eng.state ∈ [EngineState.active, .stalled] →
        (2 < kind.toNat → turnedAway .badArg) ∧
        (kind = 1 → (0 < s.ring.head ∨ s.segments.head?.map Segment.seq ≠ some 0) → turnedAway .badTarget) ∧
        (kind = 2 → (∀ e ∈ s.segments, e.seq ≠ seq.toNat) → turnedAway .badTarget) ∧
        (∀ p, s.eng.pendingTarget = some p →
          (kind = 0 → p < s.segmentStart → turnedAway .badTarget) ∧ (kind = 2 → p < seq.toNat → turnedAway .badTarget))))

/-- R3, R7, R17, R18, R22, R29, R30, R31, with log 3: MARK outside RESETTING. Accepted: the seq is T, the list gains the entry, the
touch table is emptied, the record takes a slot and its header line is handed with its check (a request handed to a ready memory
with none waiting is issued in the event: log 3, here as in the statements below), the answer carries the seq, and RING_HIGH is
raised when occupancy reaches the high-water threshold with the flag armed. Refused: the answer is the first failing condition, and
nothing else changes. -/
def Obligations.MarkerCommand : Prop :=
  ∀ (tag : MarkTag) (s : State), s.rstn = true → s.eng.state ≠ .resetting →
    let h : Header := { kind := .mark, dup := false, source := .management, region := 0, epoch := s.eng.epoch
                        seq := s.ring.tail, line := 0, tag := tag, segmentStart := s.ring.tail }
    let refused (r : MgmtResult) : Prop := exec (.mark tag) s = .next (s.answered r (List.replicate 8 0))
    let occupancy := s.ring.tail + 1 - s.ring.head
    let high := decide (s.layout.highWater * 2 ^ s.layout.order / 8 ≤ occupancy)
    (s.eng.state ≠ .active → refused .badState) ∧
    (s.eng.state = .active → 16 ≤ s.segments.length → refused .listFull) ∧
    (s.eng.state = .active → s.segments.length < 16 → 8 ≤ s.slots.length → refused .busy) ∧
    (s.eng.state = .active → s.segments.length < 16 → s.slots.length < 8 →
      2 ^ s.layout.order ≤ s.ring.tail - s.ring.head → refused .ringFull) ∧
    (s.eng.state = .active → s.segments.length < 16 → s.slots.length < 8 →
      s.ring.tail - s.ring.head < 2 ^ s.layout.order →
      ∃ t, exec (.mark tag) s = .next t ∧
        t.port.frame = some { result := .accepted, data := toBytes 8 s.ring.tail, removesEvent := false } ∧
        t.port.mask = s.port.mask ∧
        (high = false ∨ s.ring.highArmed = false ∨ s.port.mask.getLsbD 0 = false →
          t.port.events = s.port.events ∧ t.port.overflow = s.port.overflow) ∧
        (high = true → s.ring.highArmed = true → s.port.mask.getLsbD 0 = true → s.port.events.length < 32 →
          t.port.overflow = s.port.overflow ∧ t.port.events = s.port.events ++ [{
            kind := .ringHigh, state := .active, seq := some (s.ring.tail + 1), detail := some occupancy, count := none }]) ∧
        t.ring = { s.ring with tail := s.ring.tail + 1, highArmed := !high } ∧
        t.segments = s.segments ++ [{ seq := s.ring.tail, tag := tag, source := .management }] ∧
        t.touch = { entries := [], saturated := false } ∧
        t.slots = s.slots ++ [{ header := h, oldData := .notNeeded, headerWrite := .outstanding, dataWrite := .notIssued
                                held := none, abandoned := false }] ∧
        t.down = s.down.handed [{
          tag := s.down.freeTag, op := .write (headerLine h 0)
          addr := .ofNat 40 (s.layout.ringBase.toNat + 128 * (s.ring.tail % 2 ^ s.layout.order))
          mask := BitVec.allOnes 64, owner := .recordHeader s.ring.tail, event := s.eventNo + 1 }] ∧
        t.eng = s.eng ∧ t.hold = s.hold ∧ t.stall = s.stall ∧ t.timer = s.timer ∧
        t.views = s.views ∧ t.watch = s.watch ∧ t.replay = s.replay ∧ t.scan = s.scan ∧ t.up = s.up)

/-- R89, R146, R159, R193: SOFT_RESET taken while an internal request is outstanding: the engine enters RESETTING and upstream ready
is withheld; every held request not handed downstream, and the waiting one, is answered ABORTED (the order is log 42); the hold
queue is empty; the slots with a request outstanding are abandoned and the others freed; the replay and scan units are idle; the
rest stays for the final event. -/
def Obligations.SoftResetTaken : Prop :=
  ∀ s : State, s.rstn = true → s.eng.state ≠ .resetting → s.down.internalBusy = true →
    let aborted := (s.hold.queue.filter fun e => e.wait ≠ .issue).map (·.req.tag) ++ (s.hold.waiting.map (·.tag)).toList
    ∃ t, exec .softReset s = .next t ∧
      t.eng = { s.eng with state := .resetting } ∧ t.hold = { queue := [], waiting := none } ∧ t.stall = none ∧
      t.ring = { s.ring with fullReported := false } ∧ t.upReady = false ∧ t.aborted = aborted.length ∧
      (∀ j, j ∈ t.slots ↔ ∃ k ∈ s.slots, k.busy = true ∧ j = { k with abandoned := true, held := none }) ∧
      (s.up.respReady = true →
        t.up.sent = s.up.sent ++ aborted.map fun tag => { tag := tag, status := .aborted, data := none }) ∧
      (s.up.respReady = false →
        t.up.respWaiting = s.up.respWaiting ++ aborted.map fun tag => { tag := tag, status := .aborted, data := none }) ∧
      t.up.pendingForward = s.up.pendingForward ∧ t.down = s.down ∧ t.segments = s.segments ∧ t.touch = s.touch ∧
      t.watch.outstanding = s.watch.outstanding ∧ t.watch.updatePending = s.watch.updatePending ∧
      t.views = s.views ∧ t.timer = s.timer ∧ t.replay = none ∧ t.scan = none ∧
      t.port = { s.port with frame := some { result := .accepted, data := [], removesEvent := false } }

/-- R16, R28, R37, R42, R78, R86, R105, R111, R112, R121, R155, R168, R170, R193: the final event of a soft reset, by the row's own
command in a state in which it is due, or in the event of taking when no internal request is outstanding (log 2): the engine is OFF,
the journal, the view places, the watch flags and both units are as after power-on, the event queue holds RESET_DONE alone if it is
enabled, and the configuration and the downstream requests stay. Until then a response to an internal request is discarded by the
block that handed it: its slot is freed with its last request, the write outstanding flag clears, a view read is still answered; and
the last such response ends the soft reset as SOFT_RESET_END does. That the phase of the mark timer's tick restarts with its counter
is the model's choice (log 11). -/
def Obligations.SoftResetEnds : Prop :=
  (∀ s : State, s.rstn = true → s.down.internalBusy = false →
    let ended (t : State) (aborted : Nat) : Prop :=
      t.eng.state = .off ∧ t.eng.epoch = 0 ∧ t.eng.cause = none ∧ t.eng.action = none ∧ t.eng.pendingTarget = none ∧
      t.ring = { head := 0, frontier := 0, tail := 0, highArmed := true, fullReported := false } ∧
      t.segments = [] ∧ t.touch = { entries := [], saturated := false } ∧ t.slots = [] ∧ t.views = [] ∧
      t.timer = { s.timer with counter := 0, phase := 0, markCount := 0 } ∧
      t.watch.updatePending = false ∧ t.watch.outstanding = false ∧ t.replay = none ∧ t.scan = none ∧
      t.port.events = (if s.port.mask.getLsbD 15 then
        [{ kind := .resetDone, state := .off, seq := none, detail := some aborted, count := none }] else []) ∧
      t.port.overflow = false ∧ t.port.mask = s.port.mask ∧ t.layout = s.layout ∧ t.addressing = s.addressing ∧
      t.regions = s.regions ∧ t.down = s.down
    (s.eng.state = .resetting →
      ∃ t, exec .softResetEnd s = .next t ∧ ended t s.aborted ∧ t.up = s.up ∧ t.hold = s.hold) ∧
    (s.eng.state ≠ .resetting → ∃ t, exec .softReset s = .next t ∧
      ended t ((s.hold.queue.filter fun e => e.wait ≠ .issue).length + s.hold.waiting.toList.length) ∧
      t.hold = { queue := [], waiting := none } ∧
      t.port.frame = some { result := .accepted, data := [], removesEvent := false })) ∧
  (∀ (c : Instr) (r : MemResponse) (s : State) (q : DownRequest), responseOf c = some r → s.rstn = true →
    s.eng.state = .resetting → s.ResettingQuiet → s.down.issuedWith r.tag = some q → q.owner ≠ .forward →
    let noted (j : Slot) : Slot := match q.owner with
      | .oldData n => if j.header.seq = n then { j with oldData := .discarded } else j
      | .recordHeader n => if j.header.seq = n then { j with headerWrite := .acknowledged } else j
      | .recordData n => if j.header.seq = n then { j with dataWrite := .acknowledged } else j
      | _ => j
    let u : State := { s.taking r.tag with
      slots := (s.slots.map noted).filter fun j =>
        j.oldData = .reading ∨ j.headerWrite = .outstanding ∨ j.dataWrite = .outstanding
      watch := if q.owner = .status then { s.watch with outstanding := false } else s.watch }
    let v : State := { u with views := s.views.filter fun x => x.internalTag ≠ r.tag }
    ∃ t : State, (q.owner ≠ .view → t = u) ∧
      (∀ p, q.owner = .view → (s.views.find? fun x => x.internalTag = r.tag) = some p →
        (r.status = .ok → ∃ l : Line, t = v.answer p.tag .ok (some l) ∧
          ∀ j, j < 64 → lineByte l j = if p.mask.getLsbD j then lineByte r.data j else 0) ∧
        (r.status ≠ .ok → t = v.answer p.tag .memError none)) ∧
      (t.down.internalBusy = true → exec c s = .next t) ∧
      (t.down.internalBusy = false → exec c s = exec .softResetEnd { t with eventNo := s.eventNo }))

/-! ## The engine's own steps -/

/-- R37, R126, R132, R134, R135, R144, log 2: QUIESCE_END in a state in which it is due, with each pending action: COMMIT opens the
next epoch by step 1 of R126 (the mark timer's counter restarts with the phase of its tick: R37), STOP closes, ROLLBACK rolls; each
requests a status write that the engine waits for. -/
def Obligations.QuiesceEndProceeds : Prop :=
  ∀ s : State, s.rstn = true → s.eng.state = .quiescing → s.slots = [] →
    (s.eng.action = some .commit → exec .quiesceEnd s = .next (State.requestStatus { s with
      eventNo := s.eventNo + 1
      eng := { state := .opening, opener := .commit, cause := none, action := none, pendingTarget := none
               epoch := if s.eng.epoch = 0xFFFFFFFF#32 then 1 else s.eng.epoch + 1 }
      ring := { head := 0, frontier := 0, tail := 0, highArmed := true, fullReported := false }
      touch := { entries := [], saturated := false }
      segments := []
      timer := { s.timer with counter := 0, phase := 0 } } true)) ∧
    (s.eng.action = some .stop → exec .quiesceEnd s = .next (State.requestStatus { s with
      eventNo := s.eventNo + 1, eng := { s.eng with state := .closing, action := none } } true)) ∧
    (∀ m, s.eng.action = some (.rollback m) → exec .quiesceEnd s = .next (State.requestStatus { s with
      eventNo := s.eventNo + 1
      eng := { s.eng with state := .rolling, action := none }
      replay := some {
        target := m, cursor := s.ring.tail - 1, readCursor := s.ring.tail - 1, places := [], replayed := 0, faults := 0
        begun := false } } true))

/-- R22, R25, R127, log 2: OPEN_RECORD_ASSIGN in a state in which it is due: the OPEN record is assigned seq 0 and listed, takes a
slot, and its header line is handed. -/
def Obligations.OpenRecordAssigned : Prop :=
  ∀ s : State, s.rstn = true → s.eng.state = .opening → s.watch.occasion = .returned →
    s.ring = { head := 0, frontier := 0, tail := 0, highArmed := true, fullReported := false } →
    1 < s.layout.highWater * 2 ^ s.layout.order / 8 →
    let h : Header := { kind := .opening, dup := false, region := 0, epoch := s.eng.epoch, seq := 0, line := 0, tag := 0
                        source := match s.eng.opener with | .start => .start | .commit => .commit
                        segmentStart := 0 }
    exec .openRecordAssign s = .next (State.handOwn { s with
      eventNo := s.eventNo + 1
      ring := { s.ring with tail := 1 }
      slots := [{ header := h, oldData := .notNeeded, headerWrite := .outstanding, dataWrite := .notIssued, held := none
                  abandoned := false }]
      segments := [{ seq := 0, tag := 0, source := h.source }]
      watch := { s.watch with occasion := .idle } }
      (.write (headerLine h 0)) s.layout.ringBase (BitVec.allOnes 64) (.recordHeader 0))

/-- R144, R147, R152, with log 3 and 44: replay begins: while a place is free, one for each seq from T - 1 down to the one above the
target, with a header read and a data read of its ring slot, handed in descending seq, the header read ahead of the data read (the
lower tag: log 44), and issued in that order in the event where memory is ready and no request waits (log 3). Where T - 1 is the
target the walk is empty, and the rollback ends as ROLLBACK_END ends it. -/
def Obligations.ReplayReadsSlots : Prop :=
  ∀ (s : State) (p : Replay), s.rstn = true → s.Settled → s.eng.state = .rolling → s.watch.occasion = .returned →
    s.replay = some p → p.places = [] →
    (p.readCursor = p.target → p.cursor = p.target → exec .replayStart s = exec .rollbackEnd { s with
      watch := { s.watch with occasion := .idle }, replay := some { p with begun := true } }) ∧
    (p.target < p.readCursor → ∃ t k, exec .replayStart s = .next t ∧ t.replay = some k ∧ k.begun = true ∧
      k.places.map (·.seq) = (List.range (min 8 (p.readCursor - p.target))).map (fun i => p.readCursor - i) ∧
      (∀ x ∈ k.places, x.header = .outstanding ∧ x.data = .outstanding) ∧
      k.readCursor = p.readCursor - min 8 (p.readCursor - p.target) ∧ k.cursor = p.cursor ∧ k.target = p.target ∧
      t.down = (State.slotReads { s with eventNo := s.eventNo + 1 } .replayHeader .replayData
        ((List.range (min 8 (p.readCursor - p.target))).map fun i => p.readCursor - i)).down ∧
      t.eng = s.eng ∧ t.ring = s.ring ∧ t.segments = s.segments ∧ t.touch = s.touch ∧ t.watch.occasion = .idle ∧
      t.slots = s.slots ∧ t.stall = s.stall ∧ t.timer = s.timer ∧ t.hold = s.hold ∧
      t.views = s.views ∧ t.scan = s.scan ∧ t.up = s.up ∧ t.port = s.port)

/-- R17, R27, R42, R83, R85, R88, R107, R108, R110, R121, R152, R153, with the model's choices of log 3, 40 and 44: the end of a
rollback. T and F are one above the target, the list ends at it, the touch table is empty. Without a fault the engine is ACTIVE,
ROLLBACK_DONE is raised, and the ENGINE, SLOT and SPACE entries are then decided; with faults it is BROKEN with ROLLBACK_FAULT, the
BROKEN event comes first, and the RECORD entries are decided too. The status write, of the value of R106 and R107 at that time, is
handed to the control-block line, and takes its tag, before what is then decided (log 44), issued so too where memory takes them in
the event (log 3). -/
def Obligations.RollbackEnds : Prop :=
  ∀ (s : State) (p : Replay), s.rstn = true → s.eng.state = .rolling → s.replay = some p → p.begun = true →
    p.cursor = p.target → p.places = [] →
    ∃ t : State, exec .rollbackEnd s = .next t.finish ∧ (s.hold = { queue := [], waiting := none } → t.finish = t) ∧
      t.ring.head = s.ring.head ∧ t.ring.frontier = p.target + 1 ∧ t.ring.tail = p.target + 1 ∧ t.ring.fullReported = false ∧
      t.ring.highArmed = (s.ring.highArmed ||
        decide (p.target + 1 - s.ring.head < s.layout.highWater * 2 ^ s.layout.order / 8)) ∧
      t.segments = s.segments.filter (fun e => e.seq ≤ p.target) ∧ t.touch = { entries := [], saturated := false } ∧
      t.replay = none ∧ t.hold.waiting = s.hold.waiting ∧ t.up = s.up ∧ t.views = s.views ∧ t.timer = s.timer ∧
      t.scan = s.scan ∧
      (s.watch.outstanding = false → t.watch = { s.watch with outstanding := true } ∧
        t.down = (State.handOwn { s with eventNo := s.eventNo + 1 }
          (.write t.statusLine) s.layout.controlLine statusMask .status).down) ∧
      (s.watch.outstanding = true → t.watch = { s.watch with updatePending := true } ∧ t.down = s.down) ∧
      (p.faults = 0 → t.eng = { s.eng with state := .active, pendingTarget := none } ∧ t.slots = s.slots ∧ t.stall = s.stall ∧
        t.hold.queue = decidableNow [.engine, .slot, .space] s.hold.queue ∧
        (s.port.mask.getLsbD 11 = true → s.port.events.length < 32 → t.port.events = s.port.events ++
          [{ kind := .rollbackDone, state := .active, seq := some p.target, detail := some p.replayed, count := some 0 }])) ∧
      (0 < p.faults → s.eng.cause = none →
        t.eng = { s.eng with state := .broken, cause := some .rollbackFault, pendingTarget := none } ∧ t.stall = none ∧
        (∀ j, j ∈ t.slots ↔ ∃ k ∈ s.slots, k.busy = true ∧ j = { k with abandoned := true, held := none }) ∧
        (t.hold.queue = s.hold.queue.map fun e =>
          match e.wait with
          | .engine | .slot | .space | .record _ => { e with wait := .ready }
          | .line | .place | .issue | .ready => e) ∧
        (s.port.mask.getLsbD 3 = true → s.port.mask.getLsbD 11 = true → s.port.events.length < 31 →
          t.port.events = s.port.events ++
            [{ kind := .broken, state := .broken, seq := some (p.target + 1), detail := some 6, count := some 0 },
             { kind := .rollbackDone, state := .broken, seq := some p.target, detail := some p.replayed
               count := some (1 + 256 * p.faults) }]))

/-- R17, R28, R42, R88, R136, with log 30: the end of closing. The engine is OFF without an epoch, cause or pending target, H, F and T
are 0, the list and the touch table are empty, CLOSED carries the old F and epoch id, and the ENGINE, SLOT and SPACE entries are
then decided. That the high-water flag is armed is the comparison of R17, made here too (log 30). -/
def Obligations.ClosingEnds : Prop :=
  ∀ s : State, s.rstn = true → s.eng.state = .closing → s.watch.occasion = .returned →
    s.layout.highWater ≠ 0 → 8 ≤ 2 ^ s.layout.order →
    ∃ t : State, exec .closingEnd s = .next t.finish ∧ (s.hold = { queue := [], waiting := none } → t.finish = t) ∧
      t.eng = { s.eng with state := .off, epoch := 0, cause := none, pendingTarget := none } ∧
      t.ring = { head := 0, frontier := 0, tail := 0, highArmed := true, fullReported := false } ∧
      t.touch = { entries := [], saturated := false } ∧ t.segments = [] ∧ t.timer = s.timer ∧
      t.hold = { s.hold with queue := decidableNow [.engine, .slot, .space] s.hold.queue } ∧
      t.slots = s.slots ∧ t.stall = s.stall ∧ t.views = s.views ∧ t.replay = s.replay ∧ t.scan = s.scan ∧ t.up = s.up ∧
      t.down = s.down ∧
      (s.port.mask.getLsbD 13 = true → s.port.events.length < 32 → t.port.events = s.port.events ++
        [{ kind := .closed, state := .off, seq := some s.ring.frontier, detail := some s.eng.epoch.toNat, count := none }])

/-- R3, R17, R22, R29, R88, R107, R108, R110, R162, R163, R164, R165, R166, with the model's choices of log 3, 29, 40 and 44: the
end of a scan whose reads have all returned, for each stored state. H is the start seq clamped to L, F and T are the scan cursor,
the built list and table are installed, the engine enters the state of R165, and the events follow in the order of R166, each with
that state (log 40); the status write carries that state. An empty list takes a RECOVER marker, tag 0, whose header line is handed
ahead of the status write, and which empties the table (SATURATED is raised all the same: log 29), or, in a full ring, the engine is
OFF again with NO_SEGMENT. Held entries are then decided, the status write having been handed before them (log 44), and issued so
where memory takes them in the event (log 3). -/
def Obligations.ScanEnds : Prop :=
  ∀ (s : State) (c : Scan), s.rstn = true → s.eng.state = .scanning → s.scan = some c → c.stopped = true →
    (∀ x ∈ c.places, x.reading = false) → s.eng.cause = none → s.stall = none →
    c.storedState ≤ 3 → (c.storedState = 2 → 1 ≤ c.storedCause ∧ c.storedCause ≤ 7) → c.startSeq ≤ c.cursor →
    let cause : Option Cause :=
      if c.storedState = 0 then some .recoveredAfterStop
      else if c.storedState = 2 then [Cause.oldDataFault, .recordFault, .stallExpired, .ringFullBreak, .controlFault,
        .rollbackFault, .recoveredAfterStop][c.storedCause - 1]?
      else if c.storedState = 3 ∧ ∀ e ∈ c.built, e.seq ≠ c.storedTarget then some .rollbackFault
      else none
    let state := if cause = none then EngineState.active else .broken
    let target := if c.storedState = 3 then some c.storedTarget else none
    let offered (q : List Entry) : List Entry := q.map fun e =>
      match e.wait with
      | .engine | .slot | .space => { e with wait := .ready }
      | .record _ => if cause = none then e else { e with wait := .ready }
      | .line | .place | .issue | .ready => e
    let high (occupancy : Nat) := decide (s.layout.highWater * 2 ^ s.layout.order / 8 ≤ occupancy)
    let h : Header := { kind := .mark, dup := false, source := .recover, region := 0, epoch := s.eng.epoch, seq := c.cursor
                        line := 0, tag := 0, segmentStart := c.cursor }
    let u : State := { s with eventNo := s.eventNo + 1 }
    let marked : State := u.handOwn
      (.write (headerLine h 0)) (s.layout.headerAddr c.cursor) (BitVec.allOnes 64) (.recordHeader c.cursor)
    let withStatus (v t : State) : DownLink := if s.watch.outstanding = true then v.down
      else (v.handOwn (.write t.statusLine) s.layout.controlLine statusMask .status).down
    let ends (t : State) (head tail : Nat) (list : List Segment) (table : Touch) : Prop :=
      t.eng = { s.eng with state := state, cause := cause, pendingTarget := target } ∧
      t.ring = { s.ring with head := head, frontier := c.cursor, tail := tail, highArmed := !high (tail - head) } ∧
      t.segments = list ∧ t.touch = (if cause = none then table else { entries := [], saturated := false }) ∧ t.scan = none ∧
      t.hold = { s.hold with queue := offered s.hold.queue } ∧ t.up = s.up ∧ t.stall = none ∧ t.timer = s.timer ∧
      t.views = s.views ∧ t.replay = s.replay ∧
      t.watch = (if s.watch.outstanding = true then { s.watch with updatePending := true }
        else { s.watch with outstanding := true }) ∧
      (s.port.mask = 0xFFFF → s.port.events.length < 28 → t.port.events = s.port.events
        ++ (if c.dropped = 0 then [] else [{
          kind := .markRefused, state := state, seq := some c.newestDropped, detail := some c.dropped
          count := some (6 + 256 * 5) }])
        ++ (if cause = none ∧ c.table.saturated = true then [{
          kind := .saturated, state := state, seq := some c.fullAt, detail := none, count := some 8192 }] else [])
        ++ (if high (tail - head) = true ∧ s.ring.highArmed = true then [{
          kind := .ringHigh, state := state, seq := some tail, detail := some (tail - head), count := none }] else [])
        ++ (if cause = none then [] else [{
          kind := .broken, state := state, seq := some c.cursor
          detail := some (if c.storedState = 0 then 7 else if c.storedState = 2 then c.storedCause else 6)
          count := some (tail - c.cursor) }])
        ++ [{ kind := .recoverDone, state := state, seq := some tail, detail := some (tail - head)
              count := some (256 * list.length + if c.storedState = 3 then 65536 else 0) }])
    (∀ l, c.built.getLast? = some l → ∃ t : State, exec .scanEnd s = .next t.finish ∧
      (s.hold = { queue := [], waiting := none } → t.finish = t) ∧
      ends t (min c.startSeq l.seq) c.cursor c.built c.table ∧
      (cause = none → t.slots = s.slots) ∧
      (cause ≠ none → ∀ j, j ∈ t.slots ↔ ∃ k ∈ s.slots, k.busy = true ∧ j = { k with abandoned := true, held := none }) ∧
      t.down = withStatus u t) ∧
    (c.built = [] → c.cursor - c.startSeq < 2 ^ s.layout.order → ∃ t : State, exec .scanEnd s = .next t.finish ∧
      (s.hold = { queue := [], waiting := none } → t.finish = t) ∧
      ends t c.startSeq (c.cursor + 1) [{ seq := c.cursor, tag := 0, source := .recover }] { entries := [], saturated := false } ∧
      t.slots = [{ header := h, oldData := .notNeeded, headerWrite := .outstanding, dataWrite := .notIssued, held := none
                   abandoned := decide (cause ≠ none) }] ∧
      t.down = withStatus marked t) ∧
    (c.built = [] → 2 ^ s.layout.order ≤ c.cursor - c.startSeq → ∃ t : State, exec .scanEnd s = .next t.finish ∧
      (s.hold = { queue := [], waiting := none } → t.finish = t) ∧
      t.eng = { s.eng with state := .off, epoch := 0, cause := none, pendingTarget := none } ∧
      t.ring.head = 0 ∧ t.ring.frontier = 0 ∧ t.ring.tail = 0 ∧ t.segments = [] ∧
      t.touch = { entries := [], saturated := false } ∧ t.scan = none ∧ t.slots = s.slots ∧ t.watch = s.watch ∧
      t.down = s.down ∧ t.up = s.up ∧ t.timer = s.timer ∧ t.views = s.views ∧
      t.hold = { s.hold with queue := decidableNow [.engine, .slot, .space] s.hold.queue } ∧
      (s.port.mask = 0xFFFF → s.port.events.length < 30 → t.port.events = s.port.events ++
        [{ kind := .markRefused, state := .off, seq := none, detail := some 0, count := some (6 + 256 * 6) },
         { kind := .recoverDone, state := .off, seq := some 0, detail := some 0, count := some 4 }]))

/-! ## The upstream link -/

/-- R172, R173, R175: a request presented while ready is withheld is not taken (log 7), and one with a tag in use is discarded
with TAG_REUSE. Response ready given sends the waiting responses oldest first and frees their tags; withheld, it sends
nothing. (While RSTN is low only the pin is seen: log 13.) A response that can be sent frees its tag, and one that cannot
waits with its tag in use. -/
def Obligations.UpstreamHandshake : Prop :=
  ∀ s : State,
    (∀ r, s.upReady = false → exec (.upstreamRequest r) s = .next s) ∧
    (∀ r, s.upReady = true → r.tag ∈ s.up.tags → exec (.upstreamRequest r) s = .next (State.raise
      { s with eventNo := s.eventNo + 1 } .tagReuse none (some r.tag.toNat)
      (some (match r.op with | .read => 0 | .write _ => 1)))) ∧
    (s.rstn = true → ∃ t, exec .upstreamResponseReady s = .next t ∧ t = { s with eventNo := s.eventNo + 1, up := t.up } ∧
      t.up.respReady = true ∧ t.up.sent = s.up.sent ++ s.up.respWaiting ∧ t.up.respWaiting = [] ∧
      t.up.pendingForward = s.up.pendingForward ∧
      ∀ tag, tag ∈ t.up.tags ↔ tag ∈ s.up.tags ∧ ∀ q ∈ s.up.respWaiting, q.tag ≠ tag) ∧
    (s.rstn = false → exec .upstreamResponseReady s = .next { s with up := { s.up with respReady := true } }) ∧
    exec .responseReadyWithheld s = .next { s with up := { s.up with respReady := false } } ∧
    (∀ tag st d, s.up.tags.Nodup →
      (s.up.respReady = true → ∃ l, s.answer tag st d = { s with up := { s.up with
          tags := l, sent := s.up.sent ++ [{ tag := tag, status := st, data := d }] } } ∧
        ∀ g, g ∈ l ↔ g ∈ s.up.tags ∧ g ≠ tag) ∧
      (s.up.respReady = false → s.answer tag st d = { s with up := { s.up with
        respWaiting := s.up.respWaiting ++ [{ tag := tag, status := st, data := d }] } }))

/-- R44, R48, R49: the canonical address clears the fold-set bits and the view bit and keeps every other bit; an entry contains the
lines from its base up to 2^n above it; the governing entry is the lowest-index enabled entry that contains the line, and a line
without one is PASS. -/
def Obligations.LineAndModeOfARequest : Prop :=
  (∀ (a : Addressing) (x : Addr) (i : Nat), i < 40 → (a.canonical x).getLsbD i =
    (x.getLsbD i && !(decide (30 ≤ i) && a.fold.getLsbD (i - 30)) && !decide (a.viewBit = some i))) ∧
  (∀ (s : State) (x : Addr),
    let contains (r : Region) : Prop := r.base.toNat ≤ x.toNat ∧ x.toNat < r.base.toNat + 2 ^ r.order
    (∀ (i : Nat) (h : i < 16), s.regions[i].enabled = true → contains s.regions[i] →
      (∀ (j : Nat) (hj : j < i), s.regions[j].enabled = true → ¬ contains s.regions[j]) →
      s.mode x = s.regions[i].mode ∧ s.regionIndex x = i) ∧
    ((∀ (i : Nat) (h : i < 16), s.regions[i].enabled = true → ¬ contains s.regions[i]) → s.mode x = .pass))

/-- R53 steps 2, 3, 4, 6 and 7, R55, R56, R94, R174, R175: an unaligned request is answered MALFORMED, an empty mask OK, a write
to the view, to the ring area or to a FROZEN line REFUSED, at once, and nothing else changes. -/
def Obligations.AnsweredAtClassification : Prop :=
  ∀ (r : UpRequest) (s : State), s.upReady = true → s.Settled → r.tag ∉ s.up.tags →
    let answered (st : LinkStatus) (d : Option Line) : Prop := exec (.upstreamRequest r) s = .next { s with
      eventNo := s.eventNo + 1
      up := if s.up.respReady then { s.up with sent := s.up.sent ++ [{ tag := r.tag, status := st, data := d }] }
        else { s.up with
          tags := s.up.tags ++ [r.tag]
          respWaiting := s.up.respWaiting ++ [{ tag := r.tag, status := st, data := d }] } }
    let x := s.addressing.canonical r.addr
    (r.addr.toNat % 64 ≠ 0 → answered .malformed none) ∧
    (r.addr.toNat % 64 = 0 → r.mask = 0 → r.op = .read → answered .ok (some 0)) ∧
    (r.addr.toNat % 64 = 0 → r.mask = 0 → (∃ d, r.op = .write d) → answered .ok none) ∧
    (r.addr.toNat % 64 = 0 → r.mask ≠ 0 → (∃ d, r.op = .write d) →
      (∃ b, s.addressing.viewBit = some b ∧ r.addr.getLsbD b = true) ∨
        (s.eng.state ≠ .off ∧ s.layout.ringBase.toNat ≤ x.toNat ∧
          x.toNat < s.layout.ringBase.toNat + 128 * 2 ^ s.layout.order) ∨
        s.mode x = .frozen →
      answered .refused none)

/-- R50, R58, R68, R69 case 1, R91, R92, R176, R178: a request that no entry for its line precedes is forwarded on arrival: a live
read unless ROLLING holds it, a write to a PASS line, to a JOURNALED line in OFF or BROKEN, and to a JOURNALED line present in the
touch table in ACTIVE or STALLED. It is issued in that event when memory is ready and no older request waits, and is otherwise the
pending forward (when memory's ready is seen is log 3). -/
def Obligations.ForwardedOnArrival : Prop :=
  ∀ (r : UpRequest) (s : State), s.upReady = true → s.Settled → s.LinksSound → r.tag ∉ s.up.tags →
    r.addr.toNat % 64 = 0 → r.mask ≠ 0 → s.addressing.viewFlag r.addr = false →
    let x := s.addressing.canonical r.addr
    let q : DownRequest :=
      { tag := r.tag.zeroExtend 7, op := r.op, addr := x, mask := r.mask, owner := .forward, event := s.eventNo + 1 }
    (∀ e ∈ s.hold.queue, e.req.line ≠ x) →
    (r.op = .read ∧ (s.eng.state ≠ .rolling ∨ s.mode x ≠ .journaled)) ∨
      ((∃ d, r.op = .write d) ∧ (s.eng.state = .off ∨ (s.layout.inRing x = false ∧ x ≠ s.layout.controlLine)) ∧
        (s.mode x = .pass ∨ (s.mode x = .journaled ∧ (s.eng.state = .off ∨ s.eng.state = .broken)) ∨
          (s.mode x = .journaled ∧ (s.eng.state = .active ∨ s.eng.state = .stalled) ∧ ∃ e ∈ s.touch.entries, e.line = x))) →
    (s.down.ready = true → s.down.toIssue = [] → exec (.upstreamRequest r) s = .next { s with
      eventNo := s.eventNo + 1
      up := { s.up with tags := s.up.tags ++ [r.tag] }
      down := { s.down with issued := s.down.issued ++ [q] } }) ∧
    (s.down.ready = false ∨ s.down.toIssue ≠ [] → exec (.upstreamRequest r) s = .next { s with
      eventNo := s.eventNo + 1
      up := { s.up with tags := s.up.tags ++ [r.tag], pendingForward := some r.tag }
      down := { s.down with toIssue := s.down.toIssue ++ [q] } })

/-- R55, R56, R59, R62, R63, R64, R65, R66, R67, R68, R69, R79, R80, R83, R85, R88, R91, R93, R96, R97, R98, R104, R114, R115, R154,
with log 3, 19, 39, 40 and 44: a request for a line that has an entry queued is entered at the end with reason LINE, or becomes the
waiting request of a full queue, which withholds upstream ready. The entries that an event makes decidable are decided one after
another, the oldest first (log 39), each in the state the one before it left, as a request of its kind and line is decided on
arrival, but that it keeps its place until it is issued, taken or answered: where memory is ready and no request waits, a forwarded
one is issued, and leaves, in that event (log 3); an event of one decision carries the state of that decision (log 40), and the
device's own requests take their tags in that order (log 44). The waiting request is offered anew when none is left and the queue
has room (log 19). -/
def Obligations.HeldBehindItsLine : Prop :=
  (∀ (r : UpRequest) (s : State), s.upReady = true → s.Settled → r.tag ∉ s.up.tags → r.addr.toNat % 64 = 0 → r.mask ≠ 0 →
    let q := s.heldRequest r
    (∃ e ∈ s.hold.queue, e.req.line = q.line) →
    (r.op = .read ∨ (s.addressing.viewFlag r.addr = false ∧ (s.eng.state = .off ∨ s.layout.inRing q.line = false) ∧
      s.mode q.line ≠ .frozen)) →
    ∃ t, exec (.upstreamRequest r) s = .next t ∧ t = { s with
        eventNo := s.eventNo + 1
        up := { s.up with tags := s.up.tags ++ [r.tag] }
        hold := if s.hold.queue.length < 16 then { s.hold with queue := s.hold.queue ++ [{ req := q, wait := .line }] }
          else { s.hold with waiting := some q } } ∧
      (16 ≤ s.hold.queue.length → t.upReady = false)) ∧
  (∀ (s : State) (r : Request), s.firstReady = none → s.hold.waiting = some r → s.hold.queue.length < 16 →
    s.quiesceDue = false → (State.submit { s with hold := { s.hold with waiting := none } } r).quiesceDue = false →
    s.finish = (State.submit { s with hold := { s.hold with waiting := none } } r).finish) ∧
  (∀ (s : State) (e : Entry), s.firstReady = some e → s.quiesceDue = false → s.eng.state ≠ .resetting →
    let r := e.req
    let x := r.line
    let kept (u : State) (w : Wait) (watched : Entry → Bool) : State := { u with hold := { u.hold with
      queue := u.hold.queue.map fun y =>
        if y.req.tag = r.tag ∧ y.wait = .ready then { req := { y.req with watched := watched y }, wait := w } else y } }
    let held (u : State) (w : Wait) : State := kept u w fun _ => decide (x = s.layout.controlLine)
    let sent (u : State) : State :=
      let v : State := { u with down := u.down.handed [{
        tag := r.tag.zeroExtend 7, op := r.op, addr := x, mask := r.mask, owner := .forward, event := u.eventNo }] }
      if u.issuesAtOnce then v.leave r else kept v .issue fun y => y.req.watched
    let answered (u : State) (st : LinkStatus) : State := (u.answer r.tag st none).leave r
    let olderSlot := ∃ a y b, s.hold.queue = a ++ y :: b ∧ y.wait = .slot ∧ ∀ z ∈ a ++ [y], z.req.tag ≠ r.tag
    let long := s.eng.state ∈ [EngineState.opening, .quiescing, .rolling, .closing, .scanning]
    let lost := s.eng.state ∈ [EngineState.off, .broken, .scanning] ∨
      (s.eng.state ∈ [EngineState.quiescing, .closing] ∧ s.eng.cause ≠ none)
    let ringFull (u : State) : State := u.raise .ringFull (some s.ring.tail) (some r.tag.toNat) (some (2 ^ s.layout.order))
    let absent := s.mode x = .journaled ∧ ∀ t ∈ s.touch.entries, t.line ≠ x
    let refused := (s.eng.state ≠ .off ∧ s.layout.inRing x = true) ∨ s.mode x = .frozen
    let watched := if s.eng.state = .off then r.watched = true else x = s.layout.controlLine
    let isMark := ∀ j, j < 64 → r.mask.getLsbD j = (decide (16 ≤ j) && decide (j < 24))
    let isRelease := ∀ j, j < 64 → r.mask.getLsbD j = decide (j < 16)
    let full := 8 ≤ s.slots.length ∨ olderSlot
    let ring := s.ring.tail - s.ring.head
    (r.kind = .read → (s.eng.state = .rolling ∧ s.mode x = .journaled → s.finish = (held s .engine).finish) ∧
      (s.eng.state ≠ .rolling ∨ s.mode x ≠ .journaled → s.finish = (sent s).finish)) ∧
    (r.kind = .viewRead →
      (lost → s.finish = (answered s .viewLost).finish) ∧
      (s.eng.state = .rolling → s.finish = (held s .engine).finish) ∧
      (¬ lost → s.eng.state ≠ .rolling → 16 ≤ s.views.length → s.finish = (held s .place).finish) ∧
      (¬ lost → s.eng.state ≠ .rolling → s.views.length < 16 →
        (s.mode x ≠ .journaled ∨ (s.touch.lookup x = none ∧ s.touch.saturated = false) →
          s.finish = (s.takeView true r .live).finish) ∧
        (∀ q, s.mode x = .journaled → s.touch.lookup x = some q → s.finish = (s.takeView true r (.slot q)).finish) ∧
        (s.mode x = .journaled → s.touch.lookup x = none → s.touch.saturated = true →
          s.finish = (answered s .viewLost).finish))) ∧
    (∀ d, r.kind = .write d →
      (refused → s.finish = (answered s .refused).finish) ∧
      (¬ refused → watched →
        (s.eng.state = .off →
          (isRelease → s.finish = (sent (s.raise .releaseStale (some (lineField d 0 8)) (some (lineField d 8 4)) none)).finish) ∧
          (isMark → s.finish = (sent (s.raise .markRefused none (some (lineField d 16 4)) (some (4 + 256 * 2)))).finish) ∧
          (¬ isRelease → ¬ isMark → s.finish = (sent s).finish)) ∧
        (long → isRelease ∨ isMark → s.finish = (held s .engine).finish) ∧
        (s.eng.state ≠ .off → ¬ isRelease → ¬ isMark → s.finish = (sent (s.raise .watchMalformed none
          (some r.tag.toNat) (some ((List.range 64).countP fun j => r.mask.getLsbD j)))).finish) ∧
        (s.eng.state ∈ [EngineState.stalled, .broken] → isMark →
          s.finish = (sent (s.raise .markRefused none (some (lineField d 16 4)) (some (4 + 256 * 2)))).finish) ∧
        (s.eng.state = .active → isMark → s.finish = (sent (s.requestMark .watch (.ofNat 32 (lineField d 16 4)))).finish) ∧
        (s.eng.state ∈ [EngineState.active, .stalled, .broken] → isRelease →
          s.finish = (sent (s.release (lineField d 0 8) (.ofNat 32 (lineField d 8 4)))).finish)) ∧
      (¬ refused → ¬ watched →
        (s.mode x = .pass ∨ s.eng.state ∈ [EngineState.off, .broken] → s.finish = (sent s).finish) ∧
        (s.eng.state ∈ [EngineState.active, .stalled] → (∃ t ∈ s.touch.entries, t.line = x) → s.finish = (sent s).finish) ∧
        (s.mode x = .journaled → long → s.finish = (held s .engine).finish) ∧
        (absent → s.eng.state = .stalled → s.finish = (held s .space).finish) ∧
        (absent → s.eng.state = .active → full → s.finish = (held s .slot).finish) ∧
        (absent → s.eng.state = .active → ¬ full → ring < 2 ^ s.layout.order →
          s.finish = (held (s.startOperation r) (.record s.ring.tail)).finish) ∧
        (absent → s.eng.state = .active → ¬ full → 2 ^ s.layout.order ≤ ring →
          (s.layout.policy = .stall → s.finish = (ringFull { held s .space with
            eng := { s.eng with state := .stalled }, stall := some 0 }).finish) ∧
          (s.layout.policy = .refuse → s.finish = (answered (if s.ring.fullReported then s else
            { ringFull s with ring := { s.ring with fullReported := true } }) .ringFull).finish) ∧
          (s.layout.policy = .breakJournal → s.finish = (sent (s.enterBroken .ringFullBreak)).finish)))))

/-- R2, R3, R17, R18, R40, R64, R69 case 3, R71, R72, with log 18: a write to an absent line in ACTIVE, with a slot free, no older
SLOT entry and ring space, starts a journal operation: T rises by one, a slot and a touch-table entry are taken (or the saturated
flag is set, SATURATED raised, and the record carries DUP), the write is held RECORD, the old-data read is handed, and RING_HIGH is
raised when occupancy reaches the high-water threshold with the flag armed (ahead of SATURATED where both are raised: log 18). With
a full queue none of it is done and the write waits. -/
def Obligations.JournalOperationStarts : Prop :=
  ∀ (r : UpRequest) (d : Line) (s : State), s.upReady = true → s.Settled → r.tag ∉ s.up.tags → r.addr.toNat % 64 = 0 →
    r.mask ≠ 0 → r.op = .write d → s.addressing.viewFlag r.addr = false → s.eng.state = .active →
    let x := s.addressing.canonical r.addr
    let full := decide (8192 ≤ s.touch.entries.length)
    let h : Header := { kind := .change, dup := s.touch.saturated || full, source := .none, region := s.regionIndex x
                        epoch := s.eng.epoch, seq := s.ring.tail, line := x, tag := 0, segmentStart := s.segmentStart }
    let occupancy := s.ring.tail + 1 - s.ring.head
    let high := decide (s.layout.highWater * 2 ^ s.layout.order / 8 ≤ occupancy)
    s.layout.inRing x = false → x ≠ s.layout.controlLine → s.mode x = .journaled →
    (∀ e ∈ s.hold.queue, e.req.line ≠ x ∧ e.wait ≠ .slot) →
    (∀ e ∈ s.touch.entries, e.line ≠ x) → s.slots.length < 8 → s.ring.tail - s.ring.head < 2 ^ s.layout.order →
    (16 ≤ s.hold.queue.length → exec (.upstreamRequest r) s = .next { s with
      eventNo := s.eventNo + 1
      up := { s.up with tags := s.up.tags ++ [r.tag] }
      hold := { s.hold with waiting := some (s.heldRequest r) } }) ∧
    (s.hold.queue.length < 16 → ∃ t, exec (.upstreamRequest r) s = .next t ∧
      t.ring = { s.ring with tail := s.ring.tail + 1, highArmed := !high } ∧
      t.slots = s.slots ++ [{ header := h, oldData := .reading, headerWrite := .notIssued, dataWrite := .notIssued
                              held := some r.tag, abandoned := false }] ∧
      t.hold = { s.hold with queue := s.hold.queue ++ [{ req := s.heldRequest r, wait := .record s.ring.tail }] } ∧
      t.touch = (if s.touch.saturated then s.touch
        else if full then { s.touch with saturated := true }
        else { s.touch with entries := s.touch.entries ++ [{ line := x, seq := s.ring.tail }] }) ∧
      t.down = s.down.handed [{
        tag := s.down.freeTag, op := .read, addr := x, mask := BitVec.allOnes 64, owner := .oldData s.ring.tail
        event := s.eventNo + 1 }] ∧
      (s.port.mask = 0xFFFF → s.port.events.length < 31 → t.port = { s.port with events := s.port.events
        ++ (if high = true ∧ s.ring.highArmed = true then [{
          kind := .ringHigh, state := .active, seq := some (s.ring.tail + 1), detail := some occupancy, count := none }] else [])
        ++ (if s.touch.saturated = false ∧ full = true then [{
          kind := .saturated, state := .active, seq := some s.ring.tail, detail := none, count := some 8192 }] else []) }) ∧
      t.up = { s.up with tags := s.up.tags ++ [r.tag] } ∧ t.eng = s.eng ∧ t.segments = s.segments ∧ t.stall = s.stall ∧
      t.timer = s.timer ∧ t.views = s.views ∧ t.watch = s.watch ∧ t.replay = s.replay ∧ t.scan = s.scan)

/-- R64, R66, R68, R69 case 2, R93: a request to a JOURNALED line that no entry for the line precedes is held on arrival with reason
ENGINE in the long operations (a live read in ROLLING alone), SPACE in STALLED, and SLOT in ACTIVE when no slot is free or
an older entry is held SLOT. With a full queue it becomes the waiting request instead, and upstream ready is withheld. -/
def Obligations.JournaledRequestHeld : Prop :=
  ∀ (r : UpRequest) (s : State), s.upReady = true → s.Settled → r.tag ∉ s.up.tags → r.addr.toNat % 64 = 0 → r.mask ≠ 0 →
    s.addressing.viewFlag r.addr = false →
    let x := s.addressing.canonical r.addr
    let held (w : Wait) : Prop := ∃ t, exec (.upstreamRequest r) s = .next t ∧ t = { s with
        eventNo := s.eventNo + 1
        up := { s.up with tags := s.up.tags ++ [r.tag] }
        hold := if s.hold.queue.length < 16 then { s.hold with queue := s.hold.queue ++ [{ req := s.heldRequest r, wait := w }] }
          else { s.hold with waiting := some (s.heldRequest r) } } ∧
      (16 ≤ s.hold.queue.length → t.upReady = false)
    s.mode x = .journaled → (∀ e ∈ s.hold.queue, e.req.line ≠ x) →
    (r.op = .read → s.eng.state = .rolling → held .engine) ∧
    ((∃ d, r.op = .write d) → s.layout.inRing x = false → x ≠ s.layout.controlLine →
      (s.eng.state ∈ [EngineState.opening, .quiescing, .rolling, .closing, .scanning] → held .engine) ∧
      (s.eng.state = .stalled → (∀ e ∈ s.touch.entries, e.line ≠ x) → held .space) ∧
      (s.eng.state = .active → (∀ e ∈ s.touch.entries, e.line ≠ x) →
        (8 ≤ s.slots.length ∨ ∃ e ∈ s.hold.queue, e.wait = .slot) → held .slot))

/-- R64, R79, R80, R83, R84, R85, R86, R176, with log 3: a write that meets a full ring in ACTIVE. Under STALL it is held SPACE and the
engine is STALLED with the stall timer at 0 (or it is the waiting request of a full queue, and nothing else happens); under REFUSE
it is answered RING_FULL, reported once a full period; under BREAK the engine enters BROKEN with cause RING_FULL_BREAK, the write
is forwarded, and the held entries are then decided. -/
def Obligations.RingFullPolicies : Prop :=
  ∀ (r : UpRequest) (d : Line) (s : State), s.upReady = true → s.Settled → s.LinksSound → r.tag ∉ s.up.tags →
    r.addr.toNat % 64 = 0 → r.mask ≠ 0 → r.op = .write d → s.addressing.viewFlag r.addr = false → s.eng.state = .active →
    let x := s.addressing.canonical r.addr
    let u : State := { s with eventNo := s.eventNo + 1, up := { s.up with tags := s.up.tags ++ [r.tag] } }
    let ringFull (t : State) : State := t.raise .ringFull (some s.ring.tail) (some r.tag.toNat) (some (2 ^ s.layout.order))
    s.layout.inRing x = false → x ≠ s.layout.controlLine → s.mode x = .journaled →
    (∀ e ∈ s.hold.queue, e.req.line ≠ x ∧ e.wait ≠ .slot) → (∀ e ∈ s.touch.entries, e.line ≠ x) → s.slots.length < 8 →
    2 ^ s.layout.order ≤ s.ring.tail - s.ring.head →
    (s.layout.policy = .stall → s.hold.queue.length < 16 →
      exec (.upstreamRequest r) s = .next (ringFull { u with
        eng := { s.eng with state := .stalled }, stall := some 0
        hold := { s.hold with queue := s.hold.queue ++ [{ req := s.heldRequest r, wait := .space }] } })) ∧
    (s.layout.policy = .stall → 16 ≤ s.hold.queue.length →
      exec (.upstreamRequest r) s = .next { u with hold := { s.hold with waiting := some (s.heldRequest r) } }) ∧
    (s.layout.policy = .refuse →
      exec (.upstreamRequest r) s = .next (State.answer
        (if s.ring.fullReported then u else { ringFull u with ring := { s.ring with fullReported := true } })
        r.tag .ringFull none)) ∧
    (s.layout.policy = .breakJournal → s.eng.cause = none →
      ∃ t : State, u.BrokenFrom t .ringFullBreak ∧
        exec (.upstreamRequest r) s = .next (t.forwardedAs r x s.issuesAtOnce).finish ∧
        (s.hold = { queue := [], waiting := none } →
          (t.forwardedAs r x s.issuesAtOnce).finish = t.forwardedAs r x s.issuesAtOnce))

/-- R64, R95, R96, R97, R98, R99, R100: a view read that no entry for its line precedes, on arrival: it is answered VIEW_LOST, held
ENGINE in ROLLING, held for a place when every place is taken, or taken into a free place, which reads the slot that the touch
table names or the line itself. Held in a full queue it becomes the waiting request instead. -/
def Obligations.ViewReads : Prop :=
  ∀ (r : UpRequest) (s : State), s.upReady = true → s.Settled → r.tag ∉ s.up.tags → r.addr.toNat % 64 = 0 → r.mask ≠ 0 →
    r.op = .read → s.addressing.viewFlag r.addr = true →
    let x := s.addressing.canonical r.addr
    let u : State := { s with eventNo := s.eventNo + 1, up := { s.up with tags := s.up.tags ++ [r.tag] } }
    let lost := s.eng.state ∈ [EngineState.off, .broken, .scanning] ∨
      (s.eng.state ∈ [EngineState.quiescing, .closing] ∧ s.eng.cause ≠ none)
    let held (w : Wait) : Prop := exec (.upstreamRequest r) s = .next { u with
      hold := if s.hold.queue.length < 16 then { s.hold with queue := s.hold.queue ++ [{ req := s.heldRequest r, wait := w }] }
        else { s.hold with waiting := some (s.heldRequest r) } }
    let taken (src : ViewSource) (addr : Addr) (mask : Mask) : Prop := exec (.upstreamRequest r) s = .next { u with
      views := s.views ++ [{ tag := r.tag, mask := r.mask, source := src, internalTag := s.down.freeTag }]
      down := s.down.handed [{
        tag := s.down.freeTag, op := .read, addr := addr, mask := mask, owner := .view, event := s.eventNo + 1 }] }
    (∀ e ∈ s.hold.queue, e.req.line ≠ x) →
    (lost → exec (.upstreamRequest r) s = .next (u.answer r.tag .viewLost none)) ∧
    (s.eng.state = .rolling → held .engine) ∧
    (¬ lost → s.eng.state ≠ .rolling → 16 ≤ s.views.length → held .place) ∧
    (¬ lost → s.eng.state ≠ .rolling → s.views.length < 16 →
      (s.mode x ≠ .journaled → taken .live x r.mask) ∧
      (∀ q, s.mode x = .journaled → s.touch.lookup x = some q → taken (.slot q) (.ofNat 40
        (s.layout.ringBase.toNat + 128 * (q % 2 ^ s.layout.order) + 64)) (BitVec.allOnes 64)) ∧
      (s.mode x = .journaled → s.touch.lookup x = none → s.touch.saturated = false → taken .live x r.mask) ∧
      (s.mode x = .journaled → s.touch.lookup x = none → s.touch.saturated = true →
        exec (.upstreamRequest r) s = .next (u.answer r.tag .viewLost none)))

/-- R17, R26, R81, R83, R113, R114, R116, R176, with log 3 and 40: a release write in ACTIVE, STALLED and BROKEN that no entry
precedes: H, the segment list and the event follow the table of R116, the event with the state that the release leaves, before held
entries are decided again (log 40); F and T stay, and the write is forwarded. In STALLED, when it makes ring space, the engine
returns to ACTIVE, the stall timer stops, and the SPACE, SLOT and ENGINE entries are then decided. -/
def Obligations.ReleaseMovesHead : Prop :=
  ∀ (r : UpRequest) (d : Line) (s : State), s.upReady = true → s.Settled → s.LinksSound → r.tag ∉ s.up.tags →
    r.addr.toNat % 64 = 0 → r.op = .write d → s.addressing.viewFlag r.addr = false →
    s.eng.state ∈ [EngineState.active, .stalled, .broken] →
    (∀ j, j < 64 → r.mask.getLsbD j = decide (j < 16)) →
    let x := s.addressing.canonical r.addr
    let v := lineField d 0 8
    let e := lineField d 8 4
    let limit := min s.segmentStart s.ring.frontier
    let head := if e ≠ s.eng.epoch.toNat ∨ v ≤ s.ring.head then s.ring.head else max s.ring.head (min v limit)
    let returns := s.eng.state = .stalled ∧ s.ring.head < head ∧ s.ring.tail - head < 2 ^ s.layout.order
    x = s.layout.controlLine → s.layout.inRing x = false → s.mode x ≠ .frozen → (∀ q ∈ s.hold.queue, q.req.line ≠ x) →
    ∃ t : State, exec (.upstreamRequest r) s = .next (t.forwardedAs r x s.issuesAtOnce).finish ∧
      (¬ returns → (t.forwardedAs r x s.issuesAtOnce).finish = t.forwardedAs r x s.issuesAtOnce) ∧
      t.ring.head = head ∧ t.ring.frontier = s.ring.frontier ∧
      t.ring.tail = s.ring.tail ∧ (head = s.ring.head → t.segments = s.segments ∧ t.ring = s.ring) ∧
      (s.ring.head < head → t.segments = s.segments.filter (fun q => head ≤ q.seq) ∧ t.ring.fullReported = false ∧
        t.ring.highArmed = (s.ring.highArmed ||
          decide (s.ring.tail - head < s.layout.highWater * 2 ^ s.layout.order / 8))) ∧
      t.up = { s.up with tags := s.up.tags ++ [r.tag] } ∧ t.down = s.down ∧ t.eventNo = s.eventNo + 1 ∧
      (returns → t.eng = { s.eng with state := .active } ∧ t.stall = none ∧
        t.hold = { s.hold with queue := decidableNow [.engine, .slot, .space] s.hold.queue }) ∧
      (¬ returns → t.eng = s.eng ∧ t.stall = s.stall ∧ t.hold = s.hold) ∧ t.touch = s.touch ∧ t.slots = s.slots ∧
      t.timer = s.timer ∧ t.views = s.views ∧ t.watch = s.watch ∧ t.replay = s.replay ∧ t.scan = s.scan ∧
      (s.port.mask = 0xFFFF → s.port.events.length < 32 → t.port.events = s.port.events ++
        if e ≠ s.eng.epoch.toNat then
          [{ kind := .releaseStale, state := t.eng.state, seq := some v, detail := some e, count := none }]
        else if s.ring.head < v ∧ limit < v then
          [{ kind := .releaseClamped, state := t.eng.state, seq := some v, detail := none, count := none }]
        else [])

/-- R3, R7, R17, R22, R29, R30, R113, R114, R118, R176, with log 3 and 44: a mark write and a malformed write to the control-block
line, out of OFF and RESETTING. A mark in ACTIVE takes a marker with source WATCH and the written tag (its seq, segment entry, slot,
header line and RING_HIGH as for MARK), which is handed ahead of the forwarded write (log 3), or is refused with the first condition
that fails; in STALLED and BROKEN it is refused BAD_STATE, and in the long operations it is held; a malformed write raises
WATCH_MALFORMED. What is not held is forwarded. -/
def Obligations.WatchedMarkAndMalformed : Prop :=
  ∀ (r : UpRequest) (d : Line) (s : State), s.upReady = true → s.Settled → s.LinksSound → r.tag ∉ s.up.tags →
    r.addr.toNat % 64 = 0 → r.op = .write d → s.addressing.viewFlag r.addr = false → s.eng.state ≠ .off →
    let x := s.addressing.canonical r.addr
    let u : State := { s with eventNo := s.eventNo + 1, up := { s.up with tags := s.up.tags ++ [r.tag] } }
    let tag := lineField d 16 4
    let markMask := ∀ j, j < 64 → r.mask.getLsbD j = (decide (16 ≤ j) && decide (j < 24))
    let releaseMask := ∀ j, j < 64 → r.mask.getLsbD j = decide (j < 16)
    let refused (code : Nat) : Prop := exec (.upstreamRequest r) s = .next
      ((u.raise .markRefused none (some tag) (some (4 + 256 * code))).forwardedAs r x s.issuesAtOnce)
    x = s.layout.controlLine → s.layout.inRing x = false → s.mode x ≠ .frozen → (∀ q ∈ s.hold.queue, q.req.line ≠ x) →
    (markMask → s.eng.state = .active → s.segments.length < 16 → s.slots.length < 8 →
      s.ring.tail - s.ring.head < 2 ^ s.layout.order →
      exec (.upstreamRequest r) s = .next ((u.marked .watch (.ofNat 32 tag)).forwardedAs r x s.issuesAtOnce)) ∧
    (markMask → s.eng.state = .active →
      (16 ≤ s.segments.length → refused 5) ∧
      (s.segments.length < 16 → 8 ≤ s.slots.length → refused 1) ∧
      (s.segments.length < 16 → s.slots.length < 8 → 2 ^ s.layout.order ≤ s.ring.tail - s.ring.head → refused 6)) ∧
    (markMask → s.eng.state = .stalled ∨ s.eng.state = .broken → refused 2) ∧
    (markMask ∨ releaseMask →
      s.eng.state ∈ [EngineState.opening, .quiescing, .rolling, .closing, .scanning] →
      exec (.upstreamRequest r) s = .next { u with
        hold := if s.hold.queue.length < 16 then
            { s.hold with queue := s.hold.queue ++ [{ req := s.heldRequest r, wait := .engine }] }
          else { s.hold with waiting := some (s.heldRequest r) } }) ∧
    (¬ markMask → ¬ releaseMask → r.mask ≠ 0 → exec (.upstreamRequest r) s = .next ((u.raise .watchMalformed none
      (some r.tag.toNat) (some ((List.range 64).countP fun j => r.mask.getLsbD j))).forwardedAs r x s.issuesAtOnce))

/-! ## The downstream link -/

/-- R65, R67, R71, R74, R119, R147, R148, R149, R160, R176, R177, with log 3 and 4: DOWNSTREAM_ISSUE takes a waiting request that
every one handed before it was handed in the same event and names another line (a status write and a forwarded write of the control-
block line go in either order), and the reads of replay and of scan go in the order of their seqs; with no request waiting memory
takes none. Memory's ready from then on is the command's (log 3); which of the requests that may go first is taken is its operand
(log 4). A request of the device's own, but a restoring write, changes nothing else when it is issued; an issued restoring write
lets the replay cursor move on, and the seqs whose reads have returned are then settled; a pending forward gives upstream ready
back; a held request leaves the hold queue, the slot that protected it is freed, and the next entry for its line, and the SLOT
entries when a slot is freed in ACTIVE or STALLED, are decided. -/
def Obligations.RequestIssued : Prop :=
  ∀ (s : State) (pick : Nat) (ready : Bool), s.rstn = true →
    (s.down.toIssue = [] → exec (.downstreamIssue ⟨pick, ready⟩) s = .next { s with
      eventNo := s.eventNo + 1, down := { s.down with ready := ready } }) ∧
    (s.down.toIssue ≠ [] → ∃ r, s.down.picked pick = some r) ∧
    ∀ r, s.down.picked pick = some r →
      (∃ before behind, s.down.toIssue = before ++ r :: behind ∧ ∀ b ∈ before, b.event = r.event ∧
        (b.addr ≠ r.addr ∨ b.owner = .status ∨ r.owner = .status) ∧
        (∀ m n, b.owner ∈ [.replayHeader m, .replayData m] → r.owner ∈ [.replayHeader n, .replayData n] → m = n) ∧
        (∀ m n, b.owner ∈ [.scanHeader m, .scanData m] → r.owner ∈ [.scanHeader n, .scanData n] → m = n)) ∧
      (s.Settled →
        let d : DownLink :=
          { toIssue := s.down.toIssue.filter fun x => x.tag ≠ r.tag, issued := s.down.issued ++ [r], ready := ready }
        (r.owner ≠ .forward → (∀ q, r.owner ≠ .restore q) →
          exec (.downstreamIssue ⟨pick, ready⟩) s = .next { s with eventNo := s.eventNo + 1, down := d }) ∧
        (∀ n p, r.owner = .restore n → s.eng.state = .rolling → s.replay = some p →
          exec (.downstreamIssue ⟨pick, ready⟩) s = .next (State.goOnReplay { s with
            eventNo := s.eventNo + 1, down := d, replay := some { p with cursor := n - 1 } }).finish) ∧
        (∀ n p, r.owner = .restore n → s.eng.state = .rolling → s.replay = some p → p.places ≠ [] →
          (∀ x ∈ p.places, x.seq = n - 1 → x.header = .outstanding ∨ x.data = .outstanding ∨ x.writing = true) →
          exec (.downstreamIssue ⟨pick, ready⟩) s = .next { s with
            eventNo := s.eventNo + 1, down := d, replay := some { p with cursor := n - 1 } }) ∧
        (r.owner = .forward → s.up.pendingForward = some (r.tag.truncate 6) →
          (∀ e ∈ s.hold.queue, e.req.tag ≠ r.tag.truncate 6) → s.hold.waiting = none →
          exec (.downstreamIssue ⟨pick, ready⟩) s = .next { s with
            eventNo := s.eventNo + 1, down := d, up := { s.up with pendingForward := none } }) ∧
        (∀ e, r.owner = .forward → s.up.pendingForward = none → e ∈ s.hold.queue → e.req.tag = r.tag.truncate 6 →
          e.wait = .issue → (∀ q ∈ s.hold.queue, q ≠ e → q.req.tag ≠ e.req.tag) →
          let rest := s.hold.queue.filter fun q => q.req.tag ≠ e.req.tag
          let freed := (s.eng.state = .active ∨ s.eng.state = .stalled) ∧
            ∃ j ∈ s.slots, j.held = some e.req.tag ∧ j.header.seq < s.ring.frontier
          ∃ t : State, exec (.downstreamIssue ⟨pick, ready⟩) s = .next t.finish ∧ t = { s with
              eventNo := s.eventNo + 1, down := d, hold := { s.hold with queue := t.hold.queue }
              slots := s.slots.filter fun j => j.held ≠ some e.req.tag ∨ s.ring.frontier ≤ j.header.seq } ∧
            t.hold.queue.length = rest.length ∧
            (∀ (i : Nat) (h : i < rest.length),
              t.hold.queue[i]? = some (
                if (rest[i].wait = .line ∧ rest[i].req.line = e.req.line ∧
                    ∀ (j : Nat) (hj : j < i), rest[j].req.line ≠ e.req.line) ∨ (rest[i].wait = .slot ∧ freed)
                then { rest[i] with wait := .ready } else rest[i])) ∧
            ((∀ q ∈ rest, q.req.line ≠ e.req.line ∧ q.wait ≠ .slot) → s.hold.waiting = none → s.eng.state ≠ .quiescing →
              t.finish = { t with hold := { s.hold with queue := rest } })))

/-- R170, R171, R172, R175, R177, R178, R179, with log 3: memory's answer to a forwarded request is passed upstream with its status,
and for a read the selected bytes with zeros in the others; an answer to a tag not in use is discarded. A downstream tag is in use
from its request's handing until memory's response, and the device's own request takes the lowest-numbered free tag from 64 up; it
is issued in the event that hands it where memory is ready and no request waits, and waits otherwise. -/
def Obligations.ForwardedAndStrayResponses : Prop :=
  (∀ (r : MemResponse) (s : State), s.rstn = true → s.Settled →
    (∀ q, r.tag.toNat < 64 → s.down.issuedWith r.tag = some q → q.owner = .forward →
      (r.status = .ok → ∀ d, q.op = .write d →
        exec (.forwardedResponse r) s = .next ((s.taking r.tag).answer (r.tag.truncate 6) .ok none)) ∧
      (r.status = .ok → q.op = .read → ∃ l : Line,
        exec (.forwardedResponse r) s = .next ((s.taking r.tag).answer (r.tag.truncate 6) .ok (some l)) ∧
        ∀ j, j < 64 → lineByte l j = if q.mask.getLsbD j then lineByte r.data j else 0) ∧
      (r.status ≠ .ok → exec (.forwardedResponse r) s = .next ((s.taking r.tag).answer (r.tag.truncate 6) .memError none))) ∧
    (s.down.inUse r.tag = false → exec (.strayResponse r) s = .next { s with eventNo := s.eventNo + 1 })) ∧
  (∀ (d : DownLink) (t : DownTag), d.inUse t = true ↔ ∃ q ∈ d.toIssue ++ d.issued, q.tag = t) ∧
  (∀ d : DownLink, (∃ t : DownTag, 64 ≤ t.toNat ∧ d.inUse t = false) →
    64 ≤ d.freeTag.toNat ∧ d.inUse d.freeTag = false ∧
    ∀ t : DownTag, 64 ≤ t.toNat → t.toNat < d.freeTag.toNat → d.inUse t = true) ∧
  (∀ (s : State) (op : LinkOp) (addr : Addr) (mask : Mask) (owner : Owner),
    s.handOwn op addr mask owner = { s with down := s.down.handed [{
      tag := s.down.freeTag, op := op, addr := addr, mask := mask, owner := owner, event := s.eventNo }] })

/-- R22, R73, R76, R78, R85, R86, R87, R132, R133, R140, with log 3, 41 and 44: the old-data read returns: OK hands both record
writes (the data write takes the lower tag: log 44); in an abandoned slot the response is discarded, and the slot is freed with its
last request; MEM_ERROR breaks the journal with OLD_DATA_FAULT, and the held entries are then decided. In QUIESCING a MEM_ERROR
records the cause and leaves the engine QUIESCING with COMMIT or STOP pending, and abandons a pending rollback; the response that
frees the last slot ends quiescing as QUIESCE_END does. The entries an error frees are issued in its event where memory takes them
(log 3). A fault that finds the journal broken changes nothing. -/
def Obligations.OldDataResponse : Prop :=
  ∀ (r : MemResponse) (s : State) (q : DownRequest) (n : Nat) (j : Slot), s.rstn = true → s.Settled →
    s.down.issuedWith r.tag = some q → q.owner = .oldData n → s.slotOf n = some j → s.eng.state ≠ .resetting →
    let f := s.taking r.tag
    let discarded : State := { f with slots := s.slots.map fun k => if k.header.seq = n then { k with oldData := .discarded } else k }
    let freed : State := { f with slots := discarded.slots.filter fun k => k.abandoned = false ∨ k.busy = true }
    (j.abandoned = false → r.status = .ok → j.header.seq = n →
      exec (.oldDataResponse r) s = .next (State.handOwn (State.handOwn { f with
          slots := s.slots.map fun k => if k.header.seq = n then
            { k with oldData := .image r.data, headerWrite := .outstanding, dataWrite := .outstanding } else k }
        (.write r.data) (s.layout.dataAddr n) (BitVec.allOnes 64) (.recordData n))
        (.write (headerLine j.header r.data)) (s.layout.headerAddr n) (BitVec.allOnes 64) (.recordHeader n))) ∧
    (j.abandoned = true →
      (s.eng.state = .broken → exec (.oldDataResponse r) s = .next freed) ∧
      (s.eng.state = .quiescing → exec (.oldDataResponse r) s = exec .quiesceEnd { freed with eventNo := s.eventNo })) ∧
    (j.abandoned = false → r.status ≠ .ok → s.eng.cause = none →
      (s.eng.state = .active ∨ s.eng.state = .stalled → ∃ t : State, exec (.oldDataResponse r) s = .next t.finish ∧
        (s.hold = { queue := [], waiting := none } → t.finish = t) ∧ discarded.BrokenFrom t .oldDataFault) ∧
      (∀ m, s.eng.state = .quiescing → s.eng.action = some (.rollback m) → ∃ t : State,
        exec (.oldDataResponse r) s = .next (t.raise .rollbackDone (some m) (some 0) (some 2)).finish ∧
        State.BrokenFrom { discarded with eng := { s.eng with action := none } } t .oldDataFault) ∧
      (s.eng.state = .quiescing → (∀ m, s.eng.action ≠ some (.rollback m)) → ∃ t : State,
        exec (.oldDataResponse r) s = .next t.finish ∧ discarded.QuiesceFaulted t .oldDataFault ∧
        (s.issuesAtOnce = false ∨ recordEntries (fun _ => true) s.hold.queue = [] →
          exec (.oldDataResponse r) s = exec .quiesceEnd { t with eventNo := s.eventNo }))) ∧
    (j.abandoned = false → r.status ≠ .ok → s.eng.state = .broken ∨ (s.eng.state = .quiescing ∧ s.eng.cause ≠ none) →
      exec (.oldDataResponse r) s = .next discarded)

/-- R12, R13, R14, R65, R74, R77, R78, R85, R86, R87, R109, R128, R132, R133, R140, with log 3, 38, 41 and 44: a record write is
acknowledged. While another write of its record is to come, or a record below it is not complete, only the acknowledgement is noted;
otherwise F advances over every consecutive complete record and no further, whatever the order of the acknowledgements. The held
writes of the records passed are handed in queue order (where memory is ready and no request waits they are issued, and leave with
their slots, in the event: log 3), the OPEN and MARK slots passed are freed, a stride multiple crossed requests a status write (in
QUIESCING composed before the quiescing that the same event ends: log 38; handed before what is then decided: log 44), and past the
OPEN record of an opening the engine is ACTIVE with OPEN_DONE. MEM_ERROR breaks the journal with RECORD_FAULT. What is held is then
decided. In QUIESCING a MEM_ERROR records the cause, or abandons a pending rollback. In an abandoned slot the response is discarded,
F stays, and the slot is freed with its last request; freeing the last slot of a quiescing ends it as QUIESCE_END does. -/
def Obligations.RecordWriteAck : Prop :=
  ∀ (r : MemResponse) (s : State) (q : DownRequest) (n : Nat) (j : Slot), s.rstn = true → s.Settled →
    s.down.issuedWith r.tag = some q → (q.owner = .recordHeader n ∨ q.owner = .recordData n) → s.slotOf n = some j →
    let going := j.abandoned = false ∧ s.eng.state ∈ [EngineState.active, .stalled, .quiescing, .opening]
    let slots := s.slots.map fun k => if k.header.seq = n then
      (if q.owner = .recordHeader n then { k with headerWrite := .acknowledged } else { k with dataWrite := .acknowledged })
      else k
    let complete (m : Nat) : Prop := ∃ k ∈ slots, k.header.seq = m ∧ k.abandoned = false ∧ k.headerWrite = .acknowledged ∧
      (k.header.kind = .change → k.dataWrite = .acknowledged)
    let noted : State := { s.taking r.tag with slots := slots }
    let freed : State := { noted with slots := slots.filter fun k => k.abandoned = false ∨ k.busy = true }
    (going → r.status = .ok → ¬ complete s.ring.frontier ∨ s.ring.tail ≤ s.ring.frontier →
      exec (.recordWriteAck r) s = .next noted) ∧
    (going → r.status = .ok → complete s.ring.frontier → s.ring.frontier < s.ring.tail → ∃ t : State,
      exec (.recordWriteAck r) s = .next t.finish ∧
      let top := t.ring.frontier
      let opened := s.eng.state = .opening ∧ ∃ k ∈ slots, k.header.kind = .opening ∧ k.header.seq < top
      let released := recordEntries (fun m => decide (m < top)) s.hold.queue
      let stays (k : Slot) := top ≤ k.header.seq ∨
        (k.header.kind = .change ∧ (s.issuesAtOnce = true → ∀ e ∈ released, k.held ≠ some e.req.tag))
      let freed := (s.eng.state = .active ∨ s.eng.state = .stalled) ∧ ∃ k ∈ slots, ¬ stays k
      let crossed := s.ring.frontier / s.layout.stride < top / s.layout.stride
      t.ring = { s.ring with frontier := top } ∧ s.ring.frontier < top ∧ top ≤ s.ring.tail ∧
      (∀ m, s.ring.frontier ≤ m → m < top → complete m) ∧ (top = s.ring.tail ∨ ¬ complete top) ∧
      t.slots = slots.filter (fun k => stays k) ∧
      t.hold.waiting = s.hold.waiting ∧
      (t.hold.queue = (if s.issuesAtOnce then issuedFrom released s.hold.queue else s.hold.queue).map fun e =>
        match e.wait with
        | .record m => if m < top then { e with wait := .issue } else e
        | .slot => if freed ∨ opened then { e with wait := .ready } else e
        | .engine | .space => if opened then { e with wait := .ready } else e
        | .line | .place | .issue | .ready => e) ∧
      (opened → t.eng = { s.eng with state := .active } ∧
        (s.port.mask.getLsbD 9 = true → s.port.events.length < 32 → t.port.events = s.port.events ++ [{
          kind := .openDone, state := .active, seq := some 0, detail := some s.eng.epoch.toNat
          count := some (match s.eng.opener with | .start => 1 | .commit => 2) }])) ∧
      (¬ opened → t.eng = s.eng ∧ t.port = s.port) ∧
      t.watch = (if ¬ crossed then s.watch
        else if s.watch.outstanding = true then { s.watch with updatePending := true }
        else { s.watch with outstanding := true }) ∧
      (∃ l, t.down = (s.taking r.tag).down.handed ((s.taking r.tag).forwardsOf released ++ l) ∧
        l.map (fun x => (x.owner, x.op, x.addr, x.mask)) = if crossed ∧ s.watch.outstanding = false then
          [(.status, .write t.statusLine, s.layout.controlLine, statusMask)] else []) ∧
      t.segments = s.segments ∧ t.touch = s.touch ∧ t.stall = s.stall ∧ t.timer = s.timer ∧ t.views = s.views ∧
      t.replay = s.replay ∧ t.scan = s.scan ∧ t.up = s.up) ∧
    (going → r.status ≠ .ok → s.eng.state ≠ .quiescing → s.eng.cause = none → ∃ t : State,
      exec (.recordWriteAck r) s = .next t.finish ∧ (s.hold = { queue := [], waiting := none } → t.finish = t) ∧
      noted.BrokenFrom t .recordFault) ∧
    (going → r.status ≠ .ok → s.eng.state = .quiescing → s.eng.cause = none →
      (∀ m, s.eng.action = some (.rollback m) → ∃ t : State,
        exec (.recordWriteAck r) s = .next (t.raise .rollbackDone (some m) (some 0) (some 2)).finish ∧
        State.BrokenFrom { noted with eng := { s.eng with action := none } } t .recordFault) ∧
      ((∀ m, s.eng.action ≠ some (.rollback m)) → ∃ t : State,
        exec (.recordWriteAck r) s = .next t.finish ∧ noted.QuiesceFaulted t .recordFault ∧
        (s.issuesAtOnce = false ∨ recordEntries (fun _ => true) s.hold.queue = [] →
          exec (.recordWriteAck r) s = exec .quiesceEnd { t with eventNo := s.eventNo }))) ∧
    (j.abandoned = false → r.status ≠ .ok → s.eng.state = .broken ∨ (s.eng.state = .quiescing ∧ s.eng.cause ≠ none) →
      exec (.recordWriteAck r) s = .next noted) ∧
    (j.abandoned = true →
      (s.eng.state = .broken → exec (.recordWriteAck r) s = .next freed) ∧
      (s.eng.state = .quiescing → exec (.recordWriteAck r) s = exec .quiesceEnd { freed with eventNo := s.eventNo }))

/-- R17, R85, R86, R87, R110, R111, R127, R132, R133, R135, R136, R144, R145, R147, with log 3, 30, 38 and 41: a status write
returns. OK issues a pending update, composed anew, or clears the outstanding flag; where the engine waits for the write, it carries
out the step that is now due, as that step's own command does (log 2): a replay with no seq to visit thus ends the rollback.
MEM_ERROR breaks the journal in ACTIVE, STALLED, OPENING (whose OPEN record is still assigned) and ROLLING (whose rollback is
abandoned); in QUIESCING it records the cause, or abandons the rollback; with a cause held it raises BROKEN again, and in CLOSING
too, with the closing going on, and a pending update is issued after it. The error that ends the closing leaves the high-water flag
armed, by the comparison of R17 (log 30). -/
def Obligations.StatusWriteResponse : Prop :=
  ∀ (r : MemResponse) (s : State) (q : DownRequest), s.rstn = true → s.Settled →
    s.down.issuedWith r.tag = some q → q.owner = .status → s.eng.state ≠ .resetting →
    let f := s.taking r.tag
    let cleared : State := { f with watch := { s.watch with outstanding := false } }
    let g : State := { f with watch := { outstanding := false, updatePending := false, occasion := .idle } }
    let again (u : State) : State := u.raise .broken (some s.ring.frontier) (some 5) (some (s.ring.tail - s.ring.frontier))
    let abandoned (u : State) (m : Nat) : State := u.raise .rollbackDone (some m) (some 0) (some 2)
    let fails := r.status ≠ .ok ∧ s.watch.outstanding = true ∧ s.eng.cause = none
    (s.watch.occasion = .idle →
      (r.status = .ok → s.watch.updatePending = false →
        exec (.statusWriteResponse r) s = .next { f with watch := { s.watch with outstanding := false } }) ∧
      (r.status = .ok → s.watch.updatePending = true →
        exec (.statusWriteResponse r) s = .next { f.handOwn (.write f.statusLine) s.layout.controlLine statusMask .status with
          watch := { outstanding := true, updatePending := false, occasion := .idle } }) ∧
      (r.status ≠ .ok → s.eng.state = .broken → s.watch.updatePending = false →
        exec (.statusWriteResponse r) s = .next (again cleared)) ∧
      (r.status ≠ .ok → s.eng.state = .quiescing → s.eng.cause ≠ none → s.watch.updatePending = false →
        exec (.statusWriteResponse r) s = .next (again cleared)) ∧
      (r.status ≠ .ok → s.eng.state = .broken ∨ (s.eng.state = .quiescing ∧ s.eng.cause ≠ none) → s.watch.updatePending = true →
        exec (.statusWriteResponse r) s = .next
          { (again f).handOwn (.write f.statusLine) s.layout.controlLine statusMask .status with
            watch := { outstanding := true, updatePending := false, occasion := .idle } }) ∧
      (fails → s.eng.state = .active ∨ s.eng.state = .stalled ∨ (s.eng.state = .opening ∧ s.segments ≠ []) →
        ∃ t : State, exec (.statusWriteResponse r) s = .next t.finish ∧
          (s.hold = { queue := [], waiting := none } → t.finish = t) ∧ g.BrokenFrom t .controlFault) ∧
      (∀ m, fails → s.eng.state = .quiescing → s.eng.action = some (.rollback m) →
        ∃ t : State, exec (.statusWriteResponse r) s = .next (abandoned t m).finish ∧
          State.BrokenFrom { g with eng := { s.eng with action := none } } t .controlFault) ∧
      (fails → s.eng.state = .quiescing → (∀ m, s.eng.action ≠ some (.rollback m)) → ∃ t : State,
        exec (.statusWriteResponse r) s = .next t.finish ∧ g.QuiesceFaulted t .controlFault ∧
        (s.issuesAtOnce = false ∨ recordEntries (fun _ => true) s.hold.queue = [] →
          exec (.statusWriteResponse r) s = exec .quiesceEnd { t with eventNo := s.eventNo }))) ∧
    (s.watch.occasion = .queued → s.watch.updatePending = true →
      (r.status = .ok → exec (.statusWriteResponse r) s = .next
        { f.handOwn (.write f.statusLine) s.layout.controlLine statusMask .status with
          watch := { outstanding := true, updatePending := false, occasion := .inFlight } }) ∧
      (r.status ≠ .ok → s.eng.state = .closing → exec (.statusWriteResponse r) s = .next
        { (again f).handOwn (.write f.statusLine) s.layout.controlLine statusMask .status with
          watch := { outstanding := true, updatePending := false, occasion := .inFlight } })) ∧
    (s.watch.occasion ∈ [.queued, .inFlight] → fails →
      (s.eng.state = .opening → s.segments = [] →
        s.ring = { head := 0, frontier := 0, tail := 0, highArmed := true, fullReported := false } →
        1 < s.layout.highWater * 2 ^ s.layout.order / 8 →
        ∃ t : State, exec (.statusWriteResponse r) s = .next t.finish ∧ State.BrokenFrom { g with
          ring := { s.ring with tail := 1 }, slots := []
          segments := [{ seq := 0, tag := 0, source := match s.eng.opener with | .start => .start | .commit => .commit }] }
          t .controlFault) ∧
      (∀ p, s.eng.state = .rolling → s.replay = some p →
        ∃ t : State, exec (.statusWriteResponse r) s = .next (abandoned t p.target).finish ∧
          State.BrokenFrom { g with replay := none } t .controlFault)) ∧
    (s.watch.occasion = .inFlight → s.watch.updatePending = false → s.eng.state = .closing → r.status ≠ .ok →
      s.layout.highWater ≠ 0 → 8 ≤ 2 ^ s.layout.order →
      ∃ t : State, exec (.statusWriteResponse r) s = .next t.finish ∧
        t.eng = { s.eng with state := .off, epoch := 0, cause := none, pendingTarget := none } ∧
        t.ring = { head := 0, frontier := 0, tail := 0, highArmed := true, fullReported := false } ∧
        t.touch = { entries := [], saturated := false } ∧ t.segments = [] ∧
        t.hold = { s.hold with queue := decidableNow [.engine, .slot, .space] s.hold.queue } ∧ t.down = f.down ∧
        t.watch = { outstanding := false, updatePending := false, occasion := .idle } ∧
        (s.port.mask.getLsbD 3 = true → s.port.mask.getLsbD 13 = true → s.port.events.length < 31 →
          t.port.events = s.port.events ++
            [{ kind := .broken, state := .off, seq := some s.ring.frontier, detail := some 5
               count := some (s.ring.tail - s.ring.frontier) },
             { kind := .closed, state := .off, seq := some s.ring.frontier, detail := some s.eng.epoch.toNat, count := none }])) ∧
    (∀ c, (s.eng.state, c) ∈ [(EngineState.opening, Instr.openRecordAssign), (.rolling, .replayStart), (.closing, .closingEnd)] →
      s.watch.occasion = .inFlight → s.watch.updatePending = false → r.status = .ok →
      (∀ p, s.eng.state = .rolling → s.replay = some p → p.target < p.cursor ∨ s.watch.outstanding = true) →
      exec (.statusWriteResponse r) s = exec c { f with
        eventNo := s.eventNo, watch := { outstanding := false, updatePending := false, occasion := .returned } })

/-- R16, R37, R88, R125, R126, R136, with log 37: START's control-block read returns: the epoch id follows the one stored and step 1
is carried out (the mark timer's counter restarts with the phase of its tick: R37), or, on MEM_ERROR, the engine is OFF again with
the indices, the list and the table of OFF and the mark timer's counter as START found it, OPEN_FAILED is raised, and the ENGINE,
SLOT and SPACE entries are then decided. -/
def Obligations.StartControlReadResponse : Prop :=
  ∀ (r : MemResponse) (s : State) (q : DownRequest), s.rstn = true → s.Settled →
    s.down.issuedWith r.tag = some q → q.owner = .startRead → s.eng.state = .opening →
    let stored := lineField r.data 32 4
    (r.status = .ok → exec (.startControlReadResponse r) s = .next (State.requestStatus { s.taking r.tag with
      eng := { s.eng with
        epoch := if stored = 0xFFFFFFFF then 1 else .ofNat 32 (stored + 1), cause := none, action := none
        pendingTarget := none }
      ring := { head := 0, frontier := 0, tail := 0, highArmed := true, fullReported := false }
      touch := { entries := [], saturated := false }
      segments := []
      timer := { s.timer with counter := 0, phase := 0 } } true)) ∧
    (r.status ≠ .ok → ∃ t : State, exec (.startControlReadResponse r) s = .next t.finish ∧
      (s.hold = { queue := [], waiting := none } → t.finish = t) ∧
      t = State.raise { s.taking r.tag with
        eng := { s.eng with state := .off, epoch := 0 }
        ring := { s.ring with head := 0, frontier := 0, tail := 0 }
        segments := []
        touch := { entries := [], saturated := false }
        timer := { s.timer with counter := s.timer.startCounter, phase := s.timer.startPhase }
        hold := { s.hold with queue := decidableNow [.engine, .slot, .space] s.hold.queue } } .openFailed none (some 1) none)

/-- R88, R158, R159, R160, with log 24 and 44: RECOVER's control-block read returns. In the four cases of R158 (log 24 where two
apply) the engine is OFF again, RECOVER_DONE carries the result, and the ENGINE, SLOT and SPACE entries are then decided; otherwise
the epoch id is the stored one, the start seq is that of R158, and eight slots are read from it upward, the header read of each
ahead of its data read (the lower tag: log 44). -/
def Obligations.RecoverControlReadResponse : Prop :=
  ∀ (r : MemResponse) (s : State) (q : DownRequest), s.rstn = true → s.Settled →
    s.down.issuedWith r.tag = some q → q.owner = .recoverRead → s.eng.state = .scanning →
    let e := lineField r.data 32 4
    let state := lineField r.data 36 1
    let cause := lineField r.data 37 1
    let v := if lineField r.data 8 4 = e then lineField r.data 0 8 else 0
    let start := if state = 3 then min v (lineField r.data 40 8) else v
    let bad := 3 < state ∨ (state = 2 ∧ (cause = 0 ∨ 7 < cause))
    let fails (result : Nat) : Prop := ∃ t : State, exec (.recoverControlReadResponse r) s = .next t.finish ∧
      (s.hold = { queue := [], waiting := none } → t.finish = t) ∧
      t.eng = { s.eng with state := .off, epoch := 0, cause := none, pendingTarget := none } ∧
      t.ring.head = 0 ∧ t.ring.frontier = 0 ∧ t.ring.tail = 0 ∧
      t.segments = [] ∧ t.touch = { entries := [], saturated := false } ∧ t.scan = none ∧ t.watch = s.watch ∧
      t.hold = { s.hold with queue := decidableNow [.engine, .slot, .space] s.hold.queue } ∧
      t.slots = s.slots ∧ t.stall = s.stall ∧ t.timer = s.timer ∧ t.views = s.views ∧ t.up = s.up ∧
      (s.port.mask.getLsbD 12 = true → s.port.events.length < 32 → t.port.events = s.port.events ++ [{
        kind := .recoverDone, state := .off, seq := some 0, detail := some 0, count := some result }])
    (r.status ≠ .ok → fails 2) ∧ (r.status = .ok → e = 0 → fails 1) ∧ (r.status = .ok → e ≠ 0 → bad → fails 3) ∧
    (r.status = .ok → e ≠ 0 → ¬ bad → ∃ t c, exec (.recoverControlReadResponse r) s = .next t ∧ t.scan = some c ∧
      t.eng = { s.eng with epoch := .ofNat 32 e } ∧ c.epoch = .ofNat 32 e ∧ c.storedState = state ∧ c.storedCause = cause ∧
      c.storedTarget = lineField r.data 40 8 ∧ c.startSeq = start ∧ c.cursor = start ∧ c.phase = .seek ∧
      c.readCursor = start + 8 ∧ c.runStart = none ∧ c.built = [] ∧ c.dropped = 0 ∧ c.stopped = false ∧
      c.table = { entries := [], saturated := false } ∧
      c.places = (List.range 8).map (fun i => { seq := start + i, header := .outstanding, data := .outstanding }) ∧
      t.ring = s.ring ∧ t.segments = s.segments ∧ t.touch = s.touch ∧ t.hold = s.hold ∧
      t.slots = s.slots ∧ t.stall = s.stall ∧ t.timer = s.timer ∧ t.views = s.views ∧ t.watch = s.watch ∧ t.up = s.up ∧
      t.port = s.port ∧
      t.down = (State.slotReads (s.taking r.tag) .scanHeader .scanData ((List.range 8).map fun i => start + i)).down)

/-- R65, R97, R98, R99, R100, R103, R170, with log 20: the response to a view read is passed upstream, the selected bytes with zeros in
the others, and its place freed, with no effect on the engine. The view reads that wait for a place are then decided, the oldest
first: it takes the place, and the others wait on (each decision is that of HeldBehindItsLine). -/
def Obligations.ViewReaderResponse : Prop :=
  ∀ (r : MemResponse) (s : State) (q : DownRequest) (p : ViewPlace), s.rstn = true → s.Settled →
    s.down.issuedWith r.tag = some q → q.owner = .view → s.eng.state ≠ .resetting →
    (s.views.find? fun x => x.internalTag = r.tag) = some p →
    let f : State := { s.taking r.tag with
      views := s.views.filter fun x => x.internalTag ≠ r.tag
      hold := { s.hold with queue := decidableNow [.place] s.hold.queue } }
    ∃ t : State, exec (.viewReaderResponse r) s = .next t.finish ∧
      ((∀ e ∈ s.hold.queue, e.wait ≠ .place) → t.finish = t) ∧
      (∀ a e b, s.hold.queue = a ++ e :: b → e.wait = .place → (∀ y ∈ a, y.wait ≠ .place) →
        t.firstReady = some { e with wait := .ready }) ∧
      (r.status = .ok → ∃ l : Line, t = f.answer p.tag .ok (some l) ∧
        ∀ j, j < 64 → lineByte l j = if p.mask.getLsbD j then lineByte r.data j else 0) ∧
      (r.status ≠ .ok → t = f.answer p.tag .memError none)

/-- R146, R147, R148, R149, R152, R159, R160, R161, R162, with log 3, 23, 44 and 45: the responses of replay and scan. Replay: a
read whose seq cannot be settled yet is noted; both reads of the seq at the replay cursor settle it: a valid CHANGE record has its
restoring write handed (where memory is ready and no request waits it is issued in the event, and the cursor moves on: log 3), a
faulty slot is counted, a record of another kind skipped, and the freed place takes the next seq to be read. An acknowledged
restoring write is counted and its place freed. Settling goes on, seq after seq, as far as the returned reads allow, and the
response that settles the last seq ends the rollback as ROLLBACK_END does. Scan: a read whose seq cannot be settled yet is noted;
the seek advances past released ground (by at least one slot: log 23), an accepted record is taken into the run, anything else stops
it, each freed place takes the next seq to be read, before a further seq is settled (log 45; requests of one event take their tags
in the order given here: log 44), settling goes on as far as the returned reads allow, and the last outstanding read after the stop
ends the scan as SCAN_END does. -/
def Obligations.ReplayAndScanResponses : Prop :=
  (∀ (r : MemResponse) (s : State) (q : DownRequest) (n : Nat), s.rstn = true → s.Settled →
    s.down.issuedWith r.tag = some q →
    let read : ReadState := if r.status = .ok then .ok r.data else .error
    let f := s.taking r.tag
    (∀ (p : Replay), s.eng.state = .rolling → s.replay = some p → p.begun = true →
      let noted := p.places.map fun x => if x.seq = n then
        (if q.owner = .replayHeader n then { x with header := read } else { x with data := read }) else x
      let going (k : Replay) : State := { f with replay := some k }
      (q.owner = .replayHeader n ∨ q.owner = .replayData n →
        exec (.replayReadResponse r) s = .next (going { p with places := noted }).goOnReplay.finish ∧
        (p.places ≠ [] → (∀ x ∈ noted, x.seq = p.cursor → x.writing = true ∨ x.header = .outstanding ∨ x.data = .outstanding) →
          exec (.replayReadResponse r) s = .next (going { p with places := noted })) ∧
        (∀ (before after : List ReplayPlace) (x : ReplayPlace), noted = before ++ x :: after → x.seq = n → p.cursor = n →
          x.writing = false → (∀ y ∈ before ++ after, y.seq ≠ n) →
          (∀ h d, x.header = .ok h → x.data = .ok d → recordValid h d n s.eng.epoch = true → lineField h 0 1 = 2 →
            p.places.length ≤ 8 →
            let written (cursor : Nat) : State :=
              State.handOwn (going { p with places := before ++ { x with writing := true } :: after, cursor := cursor })
                (.write d) (.ofNat 40 (lineField h 16 5)) (BitVec.allOnes 64) (.restore n)
            exec (.replayReadResponse r) s =
              .next (if s.issuesAtOnce then (written (n - 1)).goOnReplay.finish else written p.cursor)) ∧
          (∀ fault : Nat,
            (fault = 1 ∧ x.header ≠ .outstanding ∧ x.data ≠ .outstanding ∧
                ∀ h d, x.header = .ok h → x.data = .ok d → recordValid h d n s.eng.epoch = false) ∨
              (fault = 0 ∧ ∃ h d, x.header = .ok h ∧ x.data = .ok d ∧ recordValid h d n s.eng.epoch = true ∧
                lineField h 0 1 ≠ 2) →
            let k := { p with places := before ++ after, faults := p.faults + fault, cursor := n - 1 }
            (p.target + 1 < n → p.places.length ≤ 8 →
              (∀ y ∈ before ++ after, y.seq = n - 1 → y.writing = true ∨ y.header = .outstanding ∨ y.data = .outstanding) →
              exec (.replayReadResponse r) s = .next (f.replayReads k)) ∧
            (n = p.target + 1 → p.readCursor = p.target → before = [] → after = [] →
              exec (.replayReadResponse r) s = exec .rollbackEnd { going k with eventNo := s.eventNo })))) ∧
      (q.owner = .restore n →
        let k := { p with
          places := p.places.filter fun x => x.seq ≠ n
          replayed := p.replayed + if r.status = .ok then 1 else 0
          faults := p.faults + if r.status = .ok then 0 else 1 }
        (k.places.length < 8 → exec (.restoringWriteAck r) s = .next (f.replayReads k).goOnReplay.finish) ∧
        (k.places.length < 8 → p.target < p.cursor →
          (∀ x ∈ k.places, x.seq = p.cursor → x.writing = true ∨ x.header = .outstanding ∨ x.data = .outstanding) →
          exec (.restoringWriteAck r) s = .next (f.replayReads k)) ∧
        (p.cursor = p.target → p.readCursor = p.target → k.places ≠ [] → (∀ x ∈ k.places, x.seq ≠ p.cursor) →
          exec (.restoringWriteAck r) s = .next (going k)) ∧
        (p.cursor = p.target → p.readCursor = p.target → k.places = [] →
          exec (.restoringWriteAck r) s = exec .rollbackEnd { going k with eventNo := s.eventNo }))) ∧
    (∀ (c : Scan), s.eng.state = .scanning → s.scan = some c → q.owner = .scanHeader n ∨ q.owner = .scanData n →
      let noted := c.places.map fun x => if x.seq = n then
        (if q.owner = .scanHeader n then { x with header := read } else { x with data := read }) else x
      let going (k : Scan) : State := { f with scan := some k }
      exec (.scanReadResponse r) s = .next (State.readScan 8 (going { c with places := noted.filter fun x =>
        c.cursor ≤ x.seq ∨ x.header = .outstanding ∨ x.data = .outstanding })).goOnScan.finish ∧
      (c.stopped = false → c.places.length = 8 → (∀ x ∈ noted, c.cursor ≤ x.seq ∨ x.reading = true) →
        (∀ x ∈ noted, x.seq = c.cursor → x.reading = true) →
        exec (.scanReadResponse r) s = .next (going { c with places := noted })) ∧
      (c.stopped = true → (∀ x ∈ noted, c.cursor ≤ x.seq ∨ x.reading = true) → (∃ x ∈ noted, x.reading = true) →
        exec (.scanReadResponse r) s = .next (going { c with places := noted })) ∧
      (c.stopped = true → (∀ x ∈ noted, c.cursor ≤ x.seq) → (∀ x ∈ noted, x.reading = false) →
        exec (.scanReadResponse r) s = exec .scanEnd { going { c with places := noted } with eventNo := s.eventNo }) ∧
      (∀ (before after : List ScanPlace) (x : ScanPlace) (k : Scan), noted = before ++ x :: after → x.seq = n → c.cursor = n →
        c.stopped = false → c.places.length = 8 → x.reading = false → (∀ y ∈ before ++ after, y.seq ≠ n ∧ y.reading = true) →
        Scan.SettlesTo { c with places := noted } x (2 ^ s.layout.order) k →
        exec (.scanReadResponse r) s = .next (if k.stopped then going k else f.scanReads k)))) ∧
  (∀ (s : State) (p : Replay), s.Bounded → s.eng.state = .rolling → s.replay = some p → p.begun = true →
    ((∀ x ∈ p.places, x.seq = p.cursor → x.writing = true ∨ x.header = .outstanding ∨ x.data = .outstanding) →
      s.goOnReplay = if p.cursor = p.target ∧ p.places = [] then s.endRollback else s) ∧
    (∀ (before after : List ReplayPlace) (x : ReplayPlace), p.places = before ++ x :: after → x.seq = p.cursor → x.writing = false →
      (∀ y ∈ before ++ after, y.seq ≠ p.cursor) →
      (∀ h d, x.header = .ok h → x.data = .ok d → recordValid h d x.seq s.eng.epoch = true → lineField h 0 1 = 2 →
        let written (cursor : Nat) : State :=
          State.handOwn { s with replay := some { p with places := before ++ { x with writing := true } :: after, cursor := cursor } }
            (.write d) (.ofNat 40 (lineField h 16 5)) (BitVec.allOnes 64) (.restore x.seq)
        s.goOnReplay = if s.issuesAtOnce then (written (x.seq - 1)).goOnReplay else written p.cursor) ∧
      (∀ fault : Nat,
        (fault = 1 ∧ x.header ≠ .outstanding ∧ x.data ≠ .outstanding ∧
            ∀ h d, x.header = .ok h → x.data = .ok d → recordValid h d x.seq s.eng.epoch = false) ∨
          (fault = 0 ∧ ∃ h d, x.header = .ok h ∧ x.data = .ok d ∧ recordValid h d x.seq s.eng.epoch = true ∧
            lineField h 0 1 ≠ 2) →
        s.goOnReplay = (s.replayReads { p with
          places := before ++ after, faults := p.faults + fault, cursor := x.seq - 1 }).goOnReplay))) ∧
  (∀ (s : State) (c : Scan), s.scan = some c →
    (∀ m, c.stopped = false → c.places.length < 8 → State.readScan (m + 1) s = State.readScan m (s.scanReads c)) ∧
    (∀ m, c.stopped = true ∨ 8 ≤ c.places.length → State.readScan m s = s)) ∧
  (∀ (s : State) (c : Scan), s.Bounded → s.eng.state = .scanning → s.scan = some c →
    (c.stopped = true → s.goOnScan = if ∃ x ∈ c.places, x.reading = true then s else s.endScan) ∧
    (c.stopped = false → (∀ x ∈ c.places, x.seq = c.cursor → x.reading = true) → s.goOnScan = s) ∧
    (∀ (x : ScanPlace) (k : Scan), c.stopped = false → x ∈ c.places → x.seq = c.cursor → x.reading = false →
      (∀ y ∈ c.places, y.seq = c.cursor → y = x) → c.SettlesTo x (2 ^ s.layout.order) k →
      s.goOnScan = (State.readScan 8 { s with scan := some k }).goOnScan))

/-- R3, R7, R17, R22, R29, R30, R36, R82, R85, R86, with log 3, 9 and 11: the timers' expiries. The mark timer's counter restarts,
the phase of its tick with it (the model's choice: log 11), its count rises by one whatever the outcome, and a TIMER marker with the
old count as its tag is taken in ACTIVE where R29 allows it (its seq, segment entry, slot, header line and RING_HIGH as for MARK),
or refused with MARK_REFUSED. The stall timer raises STALL_EXPIRED and then BROKEN, and the held entries are then decided. A timer
that does not run does not expire. -/
def Obligations.TimerExpiries : Prop :=
  ∀ s : State, s.rstn = true →
    let timer := { s.timer with counter := 0, phase := 0, markCount := s.timer.markCount + 1 }
    let refused (code : Nat) : Prop := exec .markTimerExpiry s = .next (State.raise
      { s with eventNo := s.eventNo + 1, timer := timer } .markRefused none (some s.timer.markCount.toNat)
      (some (5 + 256 * code)))
    (s.timer.enabled = false ∨ s.eng.state = .off ∨ s.eng.state = .resetting →
      exec .markTimerExpiry s = .next { s with eventNo := s.eventNo + 1 }) ∧
    (s.timer.enabled = true → s.eng.state ∉ [EngineState.off, .resetting, .active] → refused 2) ∧
    (s.timer.enabled = true → s.eng.state = .active →
      (16 ≤ s.segments.length → refused 5) ∧
      (s.segments.length < 16 → 8 ≤ s.slots.length → refused 1) ∧
      (s.segments.length < 16 → s.slots.length < 8 → 2 ^ s.layout.order ≤ s.ring.tail - s.ring.head → refused 6)) ∧
    (s.timer.enabled = true → s.eng.state = .active → s.segments.length < 16 → s.slots.length < 8 →
      s.ring.tail - s.ring.head < 2 ^ s.layout.order →
      exec .markTimerExpiry s = .next (State.marked { s with
        eventNo := s.eventNo + 1, timer := timer } .timer s.timer.markCount)) ∧
    (s.eng.state ≠ .stalled → exec .stallTimerExpiry s = .next { s with eventNo := s.eventNo + 1 }) ∧
    (s.eng.state = .stalled → s.eng.cause = none →
      ∃ t : State, exec .stallTimerExpiry s = .next t.finish ∧ (s.hold = { queue := [], waiting := none } → t.finish = t) ∧
        State.BrokenFrom (State.raise { s with eventNo := s.eventNo + 1, eng := { s.eng with state := .broken } } .stallExpired
          (some s.ring.tail) (some s.layout.stallLimit) (some (s.hold.queue.countP fun e => e.wait = .space))) t .stallExpired)

/-! ## Formats -/

/-- R106, R107: the status the device writes, in bytes 24 to 47 of the control-block line; what the other bytes of the
write carry is free (log 16), and their mask flags are clear. -/
def Obligations.StatusFormat : Prop :=
  ∀ s : State, s.ring.frontier < 2 ^ 64 → (∀ m, s.eng.pendingTarget = some m → m < 2 ^ 64) →
    (∀ p, s.replay = some p → p.target < 2 ^ 64) →
    (∀ j, j < 64 → statusMask.getLsbD j = decide (24 ≤ j ∧ j < 48)) ∧
    lineField s.statusLine 24 8 = s.ring.frontier ∧ lineField s.statusLine 32 4 = s.eng.epoch.toNat ∧
    lineField s.statusLine 38 2 = 0 ∧
    (let codes := (lineField s.statusLine 36 1, lineField s.statusLine 37 1, lineField s.statusLine 40 8)
     (s.eng.state = .closing → codes = (0, 0, 0)) ∧ (s.eng.state = .opening → codes = (1, 0, 0)) ∧
     (s.eng.state ≠ .closing → s.eng.state ≠ .opening →
       (∀ c, s.eng.cause = some c → codes = (2, c.code, 0)) ∧
       (s.eng.cause = none →
         (∀ p, s.eng.state = .rolling → s.replay = some p → codes = (3, 0, p.target)) ∧
         (∀ m, s.eng.state ≠ .rolling → s.eng.pendingTarget = some m → codes = (3, 0, m)) ∧
         (s.eng.state ≠ .rolling → s.eng.pendingTarget = none → codes = (1, 0, 0)))))

/-- R3, R4, R5, R6: the header line of a record, field by field, with its check; read back, the record is valid for its own
seq and epoch and for no other. -/
def Obligations.RecordFormat : Prop :=
  ∀ (h : Header) (d : Line), h.seq < 2 ^ 64 → h.segmentStart < 2 ^ 64 → h.region < 16 → (∀ c, h.source = .other c → c < 256) →
    let l := headerLine h d
    lineField l 0 1 = (match h.kind with | .opening => 1 | .change => 2 | .mark => 3) ∧
    lineField l 1 1 = (if h.dup then 1 else 0) ∧
    lineField l 2 1 = (match h.source with
      | .none => 0 | .start => 1 | .commit => 2 | .management => 3 | .watch => 4 | .timer => 5 | .recover => 6
      | .other c => c) ∧
    lineField l 3 1 = h.region ∧
    lineField l 4 4 = h.epoch.toNat ∧ lineField l 8 8 = h.seq ∧ lineField l 16 8 = h.line.toNat ∧
    lineField l 24 4 = h.tag.toNat ∧ lineField l 28 8 = h.segmentStart ∧ lineField l 36 24 = 0 ∧
    lineField l 60 4 = (crc32 ((List.range 60).map (lineByte l) ++
      if h.kind = .change then (List.range 64).map (lineByte d) else [])).toNat ∧
    ∀ (q : Nat) (e : Epoch), recordValid l d q e = true ↔ q = h.seq ∧ e = h.epoch

/-! ## Invariants -/

/-- R23, R38, R62, R71, R97, R146, R159, R172, R177, R178, R190: every step keeps the capacities of the chip's structures, from
every state that meets them, and the tag laws of the links: no upstream tag is in use twice, and the forwarded requests' tags and
the device's own are apart. -/
def Obligations.StepKeepsBounded : Prop :=
  (∀ s t : State, s.Bounded → step s = .next t → t.Bounded) ∧
  (∀ s t : State, s.LinksSound → step s = .next t → t.LinksSound)

/-- R9, R10, R71, R126, R127, R136: every step keeps H ≤ F ≤ T, with the order of the segment list's entries and the targets that it
rests on; and every step keeps, with it, T - H ≤ C and T - F ≤ 8, with a journal slot for every record of [F, T) while no broken cause
is held, the indices at 0 in OFF (where SET_LAYOUT may change C), and in OPENING H at 0 and T at most 1. -/
def Obligations.StepKeepsOrdered : Prop :=
  (∀ s t : State, s.Ordered → step s = .next t → t.Ordered) ∧
  (∀ s t : State, s.Ordered → s.Bounded → s.WithinRing → step s = .next t → t.WithinRing)

/-- R64, R65, R66, R86, R89, R130, R132, R146, R159, R193, log 2: every step from a settled state leaves a settled state: no entry
is left to be decided, the waiting request waits for a full queue alone, and no step leaves a quiescing with no occupied slot, or a
soft reset with no internal request. And every step keeps that, while RESETTING, nothing is held, the replay and scan units are
idle, and every occupied slot is an abandoned one with a request outstanding. -/
def Obligations.StepLeavesNothingDue : Prop :=
  (∀ s t : State, s.NothingDue → step s = .next t → t.NothingDue) ∧
  (∀ s t : State, s.Settled → step s = .next t → t.Settled) ∧
  (∀ s t : State, s.ResettingQuiet → step s = .next t → t.ResettingQuiet)

/-- R28, R42, R90, R105, R121, R194: the capacities, the order of the indices, the tag laws and the settled events hold right after
reset. -/
def Obligations.ResetMeetsInvariants : Prop :=
  State.reset.Bounded ∧ State.reset.Ordered ∧ State.reset.NothingDue ∧ State.reset.Settled ∧ State.reset.LinksSound ∧
  State.reset.WithinRing ∧ State.reset.ResettingQuiet
end

