-- ==== Sys2Proof/Laws/Bytes.lean ====
section
/-! SUPPORT. Little-endian fields: how long they are and that reading one back gives the number written (R182). -/

namespace Sys2Proof

@[simp] theorem toBytes_length (n v : Nat) : (toBytes n v).length = n := by
  induction n generalizing v with
  | zero => rfl
  | succ n ih => simp [toBytes, ih]

theorem fromBytes_toBytes (n v : Nat) (h : v < 256 ^ n) : fromBytes (toBytes n v) = v := by
  induction n generalizing v with
  | zero => simp at h; simp [toBytes, fromBytes, h]
  | succ n ih =>
    have hd : v / 256 < 256 ^ n := by
      rw [Nat.div_lt_iff_lt_mul (by decide)]; rw [Nat.pow_succ] at h; exact h
    simp only [toBytes, fromBytes, ih _ hd, BitVec.toNat_ofNat]
    omega

/-- A field at the start of a list of bytes. -/
theorem argField_head (n v : Nat) (rest : List Byte) (h : v < 256 ^ n) :
    argField (toBytes n v ++ rest) 0 n = v := by
  simp [argField, fromBytes_toBytes n v h]

/-- A field behind a list of bytes. -/
theorem argField_behind (front : List Byte) (rest : List Byte) (k n : Nat) :
    argField (front ++ rest) (front.length + k) n = argField rest k n := by
  simp [argField]

end Sys2Proof
end

