-- ==== Sys2Proof/Laws/State.lean ====
section
/-! SUPPORT. What each shared operation leaves as it was: one lemma an operation, one conjunct a field of State, true by rfl
where the operation is one update, so that no later proof unfolds a record update. -/

namespace Sys2Proof.Machine

@[simp] theorem nextEvent_frame (s : State) :
    s.nextEvent.eng = s.eng ∧ s.nextEvent.ring = s.ring ∧ s.nextEvent.segments = s.segments ∧ s.nextEvent.touch = s.touch
     ∧ s.nextEvent.slots = s.slots ∧ s.nextEvent.stall = s.stall ∧ s.nextEvent.timer = s.timer
     ∧ s.nextEvent.layout = s.layout ∧ s.nextEvent.addressing = s.addressing ∧ s.nextEvent.regions = s.regions
     ∧ s.nextEvent.hold = s.hold ∧ s.nextEvent.views = s.views ∧ s.nextEvent.watch = s.watch
     ∧ s.nextEvent.replay = s.replay ∧ s.nextEvent.scan = s.scan ∧ s.nextEvent.aborted = s.aborted ∧ s.nextEvent.up = s.up
     ∧ s.nextEvent.down = s.down ∧ s.nextEvent.port = s.port ∧ s.nextEvent.rstn = s.rstn ∧ s.nextEvent.pending = s.pending :=
  ⟨rfl, rfl, rfl, rfl, rfl, rfl, rfl, rfl, rfl, rfl, rfl, rfl, rfl, rfl, rfl, rfl, rfl, rfl, rfl, rfl, rfl⟩

@[simp] theorem answer_frame (s : State) (tag : UpTag) (st : LinkStatus) (d : Option Line) :
    (s.answer tag st d).eng = s.eng ∧ (s.answer tag st d).ring = s.ring ∧ (s.answer tag st d).segments = s.segments
     ∧ (s.answer tag st d).touch = s.touch ∧ (s.answer tag st d).slots = s.slots ∧ (s.answer tag st d).stall = s.stall
     ∧ (s.answer tag st d).timer = s.timer ∧ (s.answer tag st d).layout = s.layout
     ∧ (s.answer tag st d).addressing = s.addressing ∧ (s.answer tag st d).regions = s.regions
     ∧ (s.answer tag st d).hold = s.hold ∧ (s.answer tag st d).views = s.views ∧ (s.answer tag st d).watch = s.watch
     ∧ (s.answer tag st d).replay = s.replay ∧ (s.answer tag st d).scan = s.scan ∧ (s.answer tag st d).aborted = s.aborted
     ∧ (s.answer tag st d).down = s.down ∧ (s.answer tag st d).port = s.port ∧ (s.answer tag st d).rstn = s.rstn
     ∧ (s.answer tag st d).eventNo = s.eventNo ∧ (s.answer tag st d).pending = s.pending :=
  ⟨rfl, rfl, rfl, rfl, rfl, rfl, rfl, rfl, rfl, rfl, rfl, rfl, rfl, rfl, rfl, rfl, rfl, rfl, rfl, rfl, rfl⟩

@[simp] theorem freeTag_frame (s : State) (t : DownTag) :
    (s.freeTag t).eng = s.eng ∧ (s.freeTag t).ring = s.ring ∧ (s.freeTag t).segments = s.segments
     ∧ (s.freeTag t).touch = s.touch ∧ (s.freeTag t).slots = s.slots ∧ (s.freeTag t).stall = s.stall
     ∧ (s.freeTag t).timer = s.timer ∧ (s.freeTag t).layout = s.layout ∧ (s.freeTag t).addressing = s.addressing
     ∧ (s.freeTag t).regions = s.regions ∧ (s.freeTag t).hold = s.hold ∧ (s.freeTag t).views = s.views
     ∧ (s.freeTag t).watch = s.watch ∧ (s.freeTag t).replay = s.replay ∧ (s.freeTag t).scan = s.scan
     ∧ (s.freeTag t).aborted = s.aborted ∧ (s.freeTag t).up = s.up ∧ (s.freeTag t).port = s.port
     ∧ (s.freeTag t).rstn = s.rstn ∧ (s.freeTag t).eventNo = s.eventNo ∧ (s.freeTag t).pending = s.pending :=
  ⟨rfl, rfl, rfl, rfl, rfl, rfl, rfl, rfl, rfl, rfl, rfl, rfl, rfl, rfl, rfl, rfl, rfl, rfl, rfl, rfl, rfl⟩

@[simp] theorem hand_frame (s : State) (t : DownTag) (op : LinkOp) (a : Addr) (m : Mask) (o : Owner) :
    (s.hand t op a m o).eng = s.eng ∧ (s.hand t op a m o).ring = s.ring ∧ (s.hand t op a m o).segments = s.segments
     ∧ (s.hand t op a m o).touch = s.touch ∧ (s.hand t op a m o).slots = s.slots ∧ (s.hand t op a m o).stall = s.stall
     ∧ (s.hand t op a m o).timer = s.timer ∧ (s.hand t op a m o).layout = s.layout
     ∧ (s.hand t op a m o).addressing = s.addressing ∧ (s.hand t op a m o).regions = s.regions
     ∧ (s.hand t op a m o).hold = s.hold ∧ (s.hand t op a m o).views = s.views ∧ (s.hand t op a m o).watch = s.watch
     ∧ (s.hand t op a m o).replay = s.replay ∧ (s.hand t op a m o).scan = s.scan ∧ (s.hand t op a m o).aborted = s.aborted
     ∧ (s.hand t op a m o).up = s.up ∧ (s.hand t op a m o).port = s.port ∧ (s.hand t op a m o).rstn = s.rstn
     ∧ (s.hand t op a m o).eventNo = s.eventNo ∧ (s.hand t op a m o).pending = s.pending :=
  ⟨rfl, rfl, rfl, rfl, rfl, rfl, rfl, rfl, rfl, rfl, rfl, rfl, rfl, rfl, rfl, rfl, rfl, rfl, rfl, rfl, rfl⟩

@[simp] theorem handOwn_frame (s : State) (op : LinkOp) (a : Addr) (m : Mask) (o : Owner) :
    (s.handOwn op a m o).eng = s.eng ∧ (s.handOwn op a m o).ring = s.ring ∧ (s.handOwn op a m o).segments = s.segments
     ∧ (s.handOwn op a m o).touch = s.touch ∧ (s.handOwn op a m o).slots = s.slots ∧ (s.handOwn op a m o).stall = s.stall
     ∧ (s.handOwn op a m o).timer = s.timer ∧ (s.handOwn op a m o).layout = s.layout
     ∧ (s.handOwn op a m o).addressing = s.addressing ∧ (s.handOwn op a m o).regions = s.regions
     ∧ (s.handOwn op a m o).hold = s.hold ∧ (s.handOwn op a m o).views = s.views ∧ (s.handOwn op a m o).watch = s.watch
     ∧ (s.handOwn op a m o).replay = s.replay ∧ (s.handOwn op a m o).scan = s.scan
     ∧ (s.handOwn op a m o).aborted = s.aborted ∧ (s.handOwn op a m o).up = s.up ∧ (s.handOwn op a m o).port = s.port
     ∧ (s.handOwn op a m o).rstn = s.rstn ∧ (s.handOwn op a m o).eventNo = s.eventNo
     ∧ (s.handOwn op a m o).pending = s.pending :=
  ⟨rfl, rfl, rfl, rfl, rfl, rfl, rfl, rfl, rfl, rfl, rfl, rfl, rfl, rfl, rfl, rfl, rfl, rfl, rfl, rfl, rfl⟩

@[simp] theorem handForward_frame (s : State) (r : Request) :
    (s.handForward r).eng = s.eng ∧ (s.handForward r).ring = s.ring ∧ (s.handForward r).segments = s.segments
     ∧ (s.handForward r).touch = s.touch ∧ (s.handForward r).slots = s.slots ∧ (s.handForward r).stall = s.stall
     ∧ (s.handForward r).timer = s.timer ∧ (s.handForward r).layout = s.layout
     ∧ (s.handForward r).addressing = s.addressing ∧ (s.handForward r).regions = s.regions
     ∧ (s.handForward r).hold = s.hold ∧ (s.handForward r).views = s.views ∧ (s.handForward r).watch = s.watch
     ∧ (s.handForward r).replay = s.replay ∧ (s.handForward r).scan = s.scan ∧ (s.handForward r).aborted = s.aborted
     ∧ (s.handForward r).up = s.up ∧ (s.handForward r).port = s.port ∧ (s.handForward r).rstn = s.rstn
     ∧ (s.handForward r).eventNo = s.eventNo ∧ (s.handForward r).pending = s.pending :=
  ⟨rfl, rfl, rfl, rfl, rfl, rfl, rfl, rfl, rfl, rfl, rfl, rfl, rfl, rfl, rfl, rfl, rfl, rfl, rfl, rfl, rfl⟩

@[simp] theorem handHeader_frame (s : State) (h : Header) :
    (s.handHeader h).eng = s.eng ∧ (s.handHeader h).ring = s.ring ∧ (s.handHeader h).segments = s.segments
     ∧ (s.handHeader h).touch = s.touch ∧ (s.handHeader h).slots = s.slots ∧ (s.handHeader h).stall = s.stall
     ∧ (s.handHeader h).timer = s.timer ∧ (s.handHeader h).layout = s.layout ∧ (s.handHeader h).addressing = s.addressing
     ∧ (s.handHeader h).regions = s.regions ∧ (s.handHeader h).hold = s.hold ∧ (s.handHeader h).views = s.views
     ∧ (s.handHeader h).watch = s.watch ∧ (s.handHeader h).replay = s.replay ∧ (s.handHeader h).scan = s.scan
     ∧ (s.handHeader h).aborted = s.aborted ∧ (s.handHeader h).up = s.up ∧ (s.handHeader h).port = s.port
     ∧ (s.handHeader h).rstn = s.rstn ∧ (s.handHeader h).eventNo = s.eventNo ∧ (s.handHeader h).pending = s.pending :=
  ⟨rfl, rfl, rfl, rfl, rfl, rfl, rfl, rfl, rfl, rfl, rfl, rfl, rfl, rfl, rfl, rfl, rfl, rfl, rfl, rfl, rfl⟩

@[simp] theorem wake_frame (s : State) (p : Wait → Bool) :
    (s.wake p).eng = s.eng ∧ (s.wake p).ring = s.ring ∧ (s.wake p).segments = s.segments ∧ (s.wake p).touch = s.touch
     ∧ (s.wake p).slots = s.slots ∧ (s.wake p).stall = s.stall ∧ (s.wake p).timer = s.timer ∧ (s.wake p).layout = s.layout
     ∧ (s.wake p).addressing = s.addressing ∧ (s.wake p).regions = s.regions ∧ (s.wake p).views = s.views
     ∧ (s.wake p).watch = s.watch ∧ (s.wake p).replay = s.replay ∧ (s.wake p).scan = s.scan
     ∧ (s.wake p).aborted = s.aborted ∧ (s.wake p).up = s.up ∧ (s.wake p).down = s.down ∧ (s.wake p).port = s.port
     ∧ (s.wake p).rstn = s.rstn ∧ (s.wake p).eventNo = s.eventNo ∧ (s.wake p).pending = s.pending :=
  ⟨rfl, rfl, rfl, rfl, rfl, rfl, rfl, rfl, rfl, rfl, rfl, rfl, rfl, rfl, rfl, rfl, rfl, rfl, rfl, rfl, rfl⟩

@[simp] theorem setWait_frame (s : State) (tag : UpTag) (w : Wait) :
    (s.setWait tag w).eng = s.eng ∧ (s.setWait tag w).ring = s.ring ∧ (s.setWait tag w).segments = s.segments
     ∧ (s.setWait tag w).touch = s.touch ∧ (s.setWait tag w).slots = s.slots ∧ (s.setWait tag w).stall = s.stall
     ∧ (s.setWait tag w).timer = s.timer ∧ (s.setWait tag w).layout = s.layout
     ∧ (s.setWait tag w).addressing = s.addressing ∧ (s.setWait tag w).regions = s.regions
     ∧ (s.setWait tag w).views = s.views ∧ (s.setWait tag w).watch = s.watch ∧ (s.setWait tag w).replay = s.replay
     ∧ (s.setWait tag w).scan = s.scan ∧ (s.setWait tag w).aborted = s.aborted ∧ (s.setWait tag w).up = s.up
     ∧ (s.setWait tag w).down = s.down ∧ (s.setWait tag w).port = s.port ∧ (s.setWait tag w).rstn = s.rstn
     ∧ (s.setWait tag w).eventNo = s.eventNo ∧ (s.setWait tag w).pending = s.pending :=
  ⟨rfl, rfl, rfl, rfl, rfl, rfl, rfl, rfl, rfl, rfl, rfl, rfl, rfl, rfl, rfl, rfl, rfl, rfl, rfl, rfl, rfl⟩

@[simp] theorem setHeld_frame (s : State) (tag : UpTag) (w : Wait) (b : Bool) :
    (s.setHeld tag w b).eng = s.eng ∧ (s.setHeld tag w b).ring = s.ring ∧ (s.setHeld tag w b).segments = s.segments
     ∧ (s.setHeld tag w b).touch = s.touch ∧ (s.setHeld tag w b).slots = s.slots ∧ (s.setHeld tag w b).stall = s.stall
     ∧ (s.setHeld tag w b).timer = s.timer ∧ (s.setHeld tag w b).layout = s.layout
     ∧ (s.setHeld tag w b).addressing = s.addressing ∧ (s.setHeld tag w b).regions = s.regions
     ∧ (s.setHeld tag w b).views = s.views ∧ (s.setHeld tag w b).watch = s.watch ∧ (s.setHeld tag w b).replay = s.replay
     ∧ (s.setHeld tag w b).scan = s.scan ∧ (s.setHeld tag w b).aborted = s.aborted ∧ (s.setHeld tag w b).up = s.up
     ∧ (s.setHeld tag w b).down = s.down ∧ (s.setHeld tag w b).port = s.port ∧ (s.setHeld tag w b).rstn = s.rstn
     ∧ (s.setHeld tag w b).eventNo = s.eventNo ∧ (s.setHeld tag w b).pending = s.pending :=
  ⟨rfl, rfl, rfl, rfl, rfl, rfl, rfl, rfl, rfl, rfl, rfl, rfl, rfl, rfl, rfl, rfl, rfl, rfl, rfl, rfl, rfl⟩

@[simp] theorem leave_frame (s : State) (r : Request) :
    (s.leave r).eng = s.eng ∧ (s.leave r).ring = s.ring ∧ (s.leave r).segments = s.segments ∧ (s.leave r).touch = s.touch
     ∧ (s.leave r).slots = s.slots ∧ (s.leave r).stall = s.stall ∧ (s.leave r).timer = s.timer
     ∧ (s.leave r).layout = s.layout ∧ (s.leave r).addressing = s.addressing ∧ (s.leave r).regions = s.regions
     ∧ (s.leave r).views = s.views ∧ (s.leave r).watch = s.watch ∧ (s.leave r).replay = s.replay
     ∧ (s.leave r).scan = s.scan ∧ (s.leave r).aborted = s.aborted ∧ (s.leave r).up = s.up ∧ (s.leave r).down = s.down
     ∧ (s.leave r).port = s.port ∧ (s.leave r).rstn = s.rstn ∧ (s.leave r).eventNo = s.eventNo
     ∧ (s.leave r).pending = s.pending :=
  ⟨rfl, rfl, rfl, rfl, rfl, rfl, rfl, rfl, rfl, rfl, rfl, rfl, rfl, rfl, rfl, rfl, rfl, rfl, rfl, rfl, rfl⟩

@[simp] theorem enter_frame (s : State) (r : Request) (w : Wait) :
    (s.enter r w).eng = s.eng ∧ (s.enter r w).ring = s.ring ∧ (s.enter r w).segments = s.segments
     ∧ (s.enter r w).touch = s.touch ∧ (s.enter r w).slots = s.slots ∧ (s.enter r w).stall = s.stall
     ∧ (s.enter r w).timer = s.timer ∧ (s.enter r w).layout = s.layout ∧ (s.enter r w).addressing = s.addressing
     ∧ (s.enter r w).regions = s.regions ∧ (s.enter r w).views = s.views ∧ (s.enter r w).watch = s.watch
     ∧ (s.enter r w).replay = s.replay ∧ (s.enter r w).scan = s.scan ∧ (s.enter r w).aborted = s.aborted
     ∧ (s.enter r w).up = s.up ∧ (s.enter r w).down = s.down ∧ (s.enter r w).port = s.port ∧ (s.enter r w).rstn = s.rstn
     ∧ (s.enter r w).eventNo = s.eventNo ∧ (s.enter r w).pending = s.pending :=
  ⟨rfl, rfl, rfl, rfl, rfl, rfl, rfl, rfl, rfl, rfl, rfl, rfl, rfl, rfl, rfl, rfl, rfl, rfl, rfl, rfl, rfl⟩

@[simp] theorem slotFreed_frame (s : State) :
    s.slotFreed.eng = s.eng ∧ s.slotFreed.ring = s.ring ∧ s.slotFreed.segments = s.segments ∧ s.slotFreed.touch = s.touch
     ∧ s.slotFreed.slots = s.slots ∧ s.slotFreed.stall = s.stall ∧ s.slotFreed.timer = s.timer
     ∧ s.slotFreed.layout = s.layout ∧ s.slotFreed.addressing = s.addressing ∧ s.slotFreed.regions = s.regions
     ∧ s.slotFreed.views = s.views ∧ s.slotFreed.watch = s.watch ∧ s.slotFreed.replay = s.replay
     ∧ s.slotFreed.scan = s.scan ∧ s.slotFreed.aborted = s.aborted ∧ s.slotFreed.up = s.up ∧ s.slotFreed.down = s.down
     ∧ s.slotFreed.port = s.port ∧ s.slotFreed.rstn = s.rstn ∧ s.slotFreed.eventNo = s.eventNo
     ∧ s.slotFreed.pending = s.pending := by
  unfold State.slotFreed; try dsimp only
  repeat' split
  all_goals simp

@[simp] theorem raise_frame (s : State) (k : EventKind) (q d n : Option Nat) :
    (s.raise k q d n).eng = s.eng ∧ (s.raise k q d n).ring = s.ring ∧ (s.raise k q d n).segments = s.segments
     ∧ (s.raise k q d n).touch = s.touch ∧ (s.raise k q d n).slots = s.slots ∧ (s.raise k q d n).stall = s.stall
     ∧ (s.raise k q d n).timer = s.timer ∧ (s.raise k q d n).layout = s.layout
     ∧ (s.raise k q d n).addressing = s.addressing ∧ (s.raise k q d n).regions = s.regions
     ∧ (s.raise k q d n).hold = s.hold ∧ (s.raise k q d n).views = s.views ∧ (s.raise k q d n).watch = s.watch
     ∧ (s.raise k q d n).replay = s.replay ∧ (s.raise k q d n).scan = s.scan ∧ (s.raise k q d n).aborted = s.aborted
     ∧ (s.raise k q d n).up = s.up ∧ (s.raise k q d n).down = s.down ∧ (s.raise k q d n).rstn = s.rstn
     ∧ (s.raise k q d n).eventNo = s.eventNo ∧ (s.raise k q d n).pending = s.pending :=
  ⟨rfl, rfl, rfl, rfl, rfl, rfl, rfl, rfl, rfl, rfl, rfl, rfl, rfl, rfl, rfl, rfl, rfl, rfl, rfl, rfl, rfl⟩

@[simp] theorem occupancyChanged_frame (s : State) :
    s.occupancyChanged.eng = s.eng ∧ s.occupancyChanged.segments = s.segments ∧ s.occupancyChanged.touch = s.touch
     ∧ s.occupancyChanged.slots = s.slots ∧ s.occupancyChanged.stall = s.stall ∧ s.occupancyChanged.timer = s.timer
     ∧ s.occupancyChanged.layout = s.layout ∧ s.occupancyChanged.addressing = s.addressing
     ∧ s.occupancyChanged.regions = s.regions ∧ s.occupancyChanged.hold = s.hold ∧ s.occupancyChanged.views = s.views
     ∧ s.occupancyChanged.watch = s.watch ∧ s.occupancyChanged.replay = s.replay ∧ s.occupancyChanged.scan = s.scan
     ∧ s.occupancyChanged.aborted = s.aborted ∧ s.occupancyChanged.up = s.up ∧ s.occupancyChanged.down = s.down
     ∧ s.occupancyChanged.rstn = s.rstn ∧ s.occupancyChanged.eventNo = s.eventNo ∧ s.occupancyChanged.pending = s.pending :=
  ⟨rfl, rfl, rfl, rfl, rfl, rfl, rfl, rfl, rfl, rfl, rfl, rfl, rfl, rfl, rfl, rfl, rfl, rfl, rfl, rfl⟩

@[simp] theorem armIfBelow_frame (s : State) :
    s.armIfBelow.eng = s.eng ∧ s.armIfBelow.segments = s.segments ∧ s.armIfBelow.touch = s.touch
     ∧ s.armIfBelow.slots = s.slots ∧ s.armIfBelow.stall = s.stall ∧ s.armIfBelow.timer = s.timer
     ∧ s.armIfBelow.layout = s.layout ∧ s.armIfBelow.addressing = s.addressing ∧ s.armIfBelow.regions = s.regions
     ∧ s.armIfBelow.hold = s.hold ∧ s.armIfBelow.views = s.views ∧ s.armIfBelow.watch = s.watch
     ∧ s.armIfBelow.replay = s.replay ∧ s.armIfBelow.scan = s.scan ∧ s.armIfBelow.aborted = s.aborted
     ∧ s.armIfBelow.up = s.up ∧ s.armIfBelow.down = s.down ∧ s.armIfBelow.port = s.port ∧ s.armIfBelow.rstn = s.rstn
     ∧ s.armIfBelow.eventNo = s.eventNo ∧ s.armIfBelow.pending = s.pending :=
  ⟨rfl, rfl, rfl, rfl, rfl, rfl, rfl, rfl, rfl, rfl, rfl, rfl, rfl, rfl, rfl, rfl, rfl, rfl, rfl, rfl, rfl⟩

@[simp] theorem setEngine_frame (s : State) (e : EngineState) :
    (s.setEngine e).ring = s.ring ∧ (s.setEngine e).segments = s.segments ∧ (s.setEngine e).touch = s.touch
     ∧ (s.setEngine e).slots = s.slots ∧ (s.setEngine e).stall = s.stall ∧ (s.setEngine e).timer = s.timer
     ∧ (s.setEngine e).layout = s.layout ∧ (s.setEngine e).addressing = s.addressing ∧ (s.setEngine e).regions = s.regions
     ∧ (s.setEngine e).hold = s.hold ∧ (s.setEngine e).views = s.views ∧ (s.setEngine e).watch = s.watch
     ∧ (s.setEngine e).replay = s.replay ∧ (s.setEngine e).scan = s.scan ∧ (s.setEngine e).aborted = s.aborted
     ∧ (s.setEngine e).up = s.up ∧ (s.setEngine e).down = s.down ∧ (s.setEngine e).port = s.port
     ∧ (s.setEngine e).rstn = s.rstn ∧ (s.setEngine e).eventNo = s.eventNo ∧ (s.setEngine e).pending = s.pending :=
  ⟨rfl, rfl, rfl, rfl, rfl, rfl, rfl, rfl, rfl, rfl, rfl, rfl, rfl, rfl, rfl, rfl, rfl, rfl, rfl, rfl, rfl⟩

@[simp] theorem issueStatus_frame (s : State) :
    s.issueStatus.eng = s.eng ∧ s.issueStatus.ring = s.ring ∧ s.issueStatus.segments = s.segments
     ∧ s.issueStatus.touch = s.touch ∧ s.issueStatus.slots = s.slots ∧ s.issueStatus.stall = s.stall
     ∧ s.issueStatus.timer = s.timer ∧ s.issueStatus.layout = s.layout ∧ s.issueStatus.addressing = s.addressing
     ∧ s.issueStatus.regions = s.regions ∧ s.issueStatus.hold = s.hold ∧ s.issueStatus.views = s.views
     ∧ s.issueStatus.replay = s.replay ∧ s.issueStatus.scan = s.scan ∧ s.issueStatus.aborted = s.aborted
     ∧ s.issueStatus.up = s.up ∧ s.issueStatus.port = s.port ∧ s.issueStatus.rstn = s.rstn
     ∧ s.issueStatus.eventNo = s.eventNo ∧ s.issueStatus.pending = s.pending :=
  ⟨rfl, rfl, rfl, rfl, rfl, rfl, rfl, rfl, rfl, rfl, rfl, rfl, rfl, rfl, rfl, rfl, rfl, rfl, rfl, rfl⟩

@[simp] theorem requestStatus_frame (s : State) (w : Bool) :
    (s.requestStatus w).eng = s.eng ∧ (s.requestStatus w).ring = s.ring ∧ (s.requestStatus w).segments = s.segments
     ∧ (s.requestStatus w).touch = s.touch ∧ (s.requestStatus w).slots = s.slots ∧ (s.requestStatus w).stall = s.stall
     ∧ (s.requestStatus w).timer = s.timer ∧ (s.requestStatus w).layout = s.layout
     ∧ (s.requestStatus w).addressing = s.addressing ∧ (s.requestStatus w).regions = s.regions
     ∧ (s.requestStatus w).hold = s.hold ∧ (s.requestStatus w).views = s.views ∧ (s.requestStatus w).replay = s.replay
     ∧ (s.requestStatus w).scan = s.scan ∧ (s.requestStatus w).aborted = s.aborted ∧ (s.requestStatus w).up = s.up
     ∧ (s.requestStatus w).port = s.port ∧ (s.requestStatus w).rstn = s.rstn ∧ (s.requestStatus w).eventNo = s.eventNo
     ∧ (s.requestStatus w).pending = s.pending := by
  unfold State.requestStatus; try dsimp only
  repeat' split
  all_goals simp

@[simp] theorem enterActive_frame (s : State) :
    s.enterActive.ring = s.ring ∧ s.enterActive.segments = s.segments ∧ s.enterActive.touch = s.touch
     ∧ s.enterActive.slots = s.slots ∧ s.enterActive.stall = s.stall ∧ s.enterActive.timer = s.timer
     ∧ s.enterActive.layout = s.layout ∧ s.enterActive.addressing = s.addressing ∧ s.enterActive.regions = s.regions
     ∧ s.enterActive.views = s.views ∧ s.enterActive.watch = s.watch ∧ s.enterActive.replay = s.replay
     ∧ s.enterActive.scan = s.scan ∧ s.enterActive.aborted = s.aborted ∧ s.enterActive.up = s.up
     ∧ s.enterActive.down = s.down ∧ s.enterActive.port = s.port ∧ s.enterActive.rstn = s.rstn
     ∧ s.enterActive.eventNo = s.eventNo ∧ s.enterActive.pending = s.pending :=
  ⟨rfl, rfl, rfl, rfl, rfl, rfl, rfl, rfl, rfl, rfl, rfl, rfl, rfl, rfl, rfl, rfl, rfl, rfl, rfl, rfl⟩

@[simp] theorem enterOff_frame (s : State) :
    s.enterOff.ring = s.ring ∧ s.enterOff.segments = s.segments ∧ s.enterOff.touch = s.touch ∧ s.enterOff.slots = s.slots
     ∧ s.enterOff.stall = s.stall ∧ s.enterOff.timer = s.timer ∧ s.enterOff.layout = s.layout
     ∧ s.enterOff.addressing = s.addressing ∧ s.enterOff.regions = s.regions ∧ s.enterOff.views = s.views
     ∧ s.enterOff.watch = s.watch ∧ s.enterOff.replay = s.replay ∧ s.enterOff.scan = s.scan
     ∧ s.enterOff.aborted = s.aborted ∧ s.enterOff.up = s.up ∧ s.enterOff.down = s.down ∧ s.enterOff.port = s.port
     ∧ s.enterOff.rstn = s.rstn ∧ s.enterOff.eventNo = s.eventNo ∧ s.enterOff.pending = s.pending :=
  ⟨rfl, rfl, rfl, rfl, rfl, rfl, rfl, rfl, rfl, rfl, rfl, rfl, rfl, rfl, rfl, rfl, rfl, rfl, rfl, rfl⟩

@[simp] theorem emptyJournal_frame (s : State) :
    s.emptyJournal.eng = s.eng ∧ s.emptyJournal.slots = s.slots ∧ s.emptyJournal.stall = s.stall
     ∧ s.emptyJournal.timer = s.timer ∧ s.emptyJournal.layout = s.layout ∧ s.emptyJournal.addressing = s.addressing
     ∧ s.emptyJournal.regions = s.regions ∧ s.emptyJournal.hold = s.hold ∧ s.emptyJournal.views = s.views
     ∧ s.emptyJournal.watch = s.watch ∧ s.emptyJournal.replay = s.replay ∧ s.emptyJournal.scan = s.scan
     ∧ s.emptyJournal.aborted = s.aborted ∧ s.emptyJournal.up = s.up ∧ s.emptyJournal.down = s.down
     ∧ s.emptyJournal.port = s.port ∧ s.emptyJournal.rstn = s.rstn ∧ s.emptyJournal.eventNo = s.eventNo
     ∧ s.emptyJournal.pending = s.pending :=
  ⟨rfl, rfl, rfl, rfl, rfl, rfl, rfl, rfl, rfl, rfl, rfl, rfl, rfl, rfl, rfl, rfl, rfl, rfl, rfl⟩

@[simp] theorem emptyJournal_ring (s : State) :
    s.emptyJournal.ring = { s.ring with head := 0, frontier := 0, tail := 0 } ∧ s.emptyJournal.segments = []
     ∧ s.emptyJournal.touch = Touch.empty := ⟨rfl, rfl, rfl⟩

@[simp] theorem breakJournal_frame (s : State) (c : Cause) :
    (s.breakJournal c).ring = s.ring ∧ (s.breakJournal c).segments = s.segments ∧ (s.breakJournal c).timer = s.timer
     ∧ (s.breakJournal c).layout = s.layout ∧ (s.breakJournal c).addressing = s.addressing
     ∧ (s.breakJournal c).regions = s.regions ∧ (s.breakJournal c).hold = s.hold ∧ (s.breakJournal c).views = s.views
     ∧ (s.breakJournal c).watch = s.watch ∧ (s.breakJournal c).replay = s.replay ∧ (s.breakJournal c).scan = s.scan
     ∧ (s.breakJournal c).aborted = s.aborted ∧ (s.breakJournal c).up = s.up ∧ (s.breakJournal c).down = s.down
     ∧ (s.breakJournal c).port = s.port ∧ (s.breakJournal c).rstn = s.rstn ∧ (s.breakJournal c).eventNo = s.eventNo
     ∧ (s.breakJournal c).pending = s.pending :=
  ⟨rfl, rfl, rfl, rfl, rfl, rfl, rfl, rfl, rfl, rfl, rfl, rfl, rfl, rfl, rfl, rfl, rfl, rfl⟩

@[simp] theorem raiseBroken_frame (s : State) (c : Cause) :
    (s.raiseBroken c).eng = s.eng ∧ (s.raiseBroken c).ring = s.ring ∧ (s.raiseBroken c).segments = s.segments
     ∧ (s.raiseBroken c).touch = s.touch ∧ (s.raiseBroken c).slots = s.slots ∧ (s.raiseBroken c).stall = s.stall
     ∧ (s.raiseBroken c).timer = s.timer ∧ (s.raiseBroken c).layout = s.layout
     ∧ (s.raiseBroken c).addressing = s.addressing ∧ (s.raiseBroken c).regions = s.regions
     ∧ (s.raiseBroken c).hold = s.hold ∧ (s.raiseBroken c).views = s.views ∧ (s.raiseBroken c).watch = s.watch
     ∧ (s.raiseBroken c).replay = s.replay ∧ (s.raiseBroken c).scan = s.scan ∧ (s.raiseBroken c).aborted = s.aborted
     ∧ (s.raiseBroken c).up = s.up ∧ (s.raiseBroken c).down = s.down ∧ (s.raiseBroken c).rstn = s.rstn
     ∧ (s.raiseBroken c).eventNo = s.eventNo ∧ (s.raiseBroken c).pending = s.pending :=
  ⟨rfl, rfl, rfl, rfl, rfl, rfl, rfl, rfl, rfl, rfl, rfl, rfl, rfl, rfl, rfl, rfl, rfl, rfl, rfl, rfl, rfl⟩

@[simp] theorem enterBroken_frame (s : State) (c : Cause) :
    (s.enterBroken c).ring = s.ring ∧ (s.enterBroken c).segments = s.segments ∧ (s.enterBroken c).timer = s.timer
     ∧ (s.enterBroken c).layout = s.layout ∧ (s.enterBroken c).addressing = s.addressing
     ∧ (s.enterBroken c).regions = s.regions ∧ (s.enterBroken c).views = s.views ∧ (s.enterBroken c).replay = s.replay
     ∧ (s.enterBroken c).scan = s.scan ∧ (s.enterBroken c).aborted = s.aborted ∧ (s.enterBroken c).up = s.up
     ∧ (s.enterBroken c).rstn = s.rstn ∧ (s.enterBroken c).eventNo = s.eventNo ∧ (s.enterBroken c).pending = s.pending := by
  simp [State.enterBroken]

@[simp] theorem assign_frame (s : State) (j : Slot) :
    (s.assign j).eng = s.eng ∧ (s.assign j).segments = s.segments ∧ (s.assign j).touch = s.touch
     ∧ (s.assign j).stall = s.stall ∧ (s.assign j).timer = s.timer ∧ (s.assign j).layout = s.layout
     ∧ (s.assign j).addressing = s.addressing ∧ (s.assign j).regions = s.regions ∧ (s.assign j).hold = s.hold
     ∧ (s.assign j).views = s.views ∧ (s.assign j).watch = s.watch ∧ (s.assign j).replay = s.replay
     ∧ (s.assign j).scan = s.scan ∧ (s.assign j).aborted = s.aborted ∧ (s.assign j).up = s.up ∧ (s.assign j).down = s.down
     ∧ (s.assign j).rstn = s.rstn ∧ (s.assign j).eventNo = s.eventNo ∧ (s.assign j).pending = s.pending :=
  ⟨rfl, rfl, rfl, rfl, rfl, rfl, rfl, rfl, rfl, rfl, rfl, rfl, rfl, rfl, rfl, rfl, rfl, rfl, rfl⟩

@[simp] theorem acceptMark_frame (s : State) (src : Source) (tag : MarkTag) :
    (s.acceptMark src tag).eng = s.eng ∧ (s.acceptMark src tag).stall = s.stall ∧ (s.acceptMark src tag).timer = s.timer
     ∧ (s.acceptMark src tag).layout = s.layout ∧ (s.acceptMark src tag).addressing = s.addressing
     ∧ (s.acceptMark src tag).regions = s.regions ∧ (s.acceptMark src tag).hold = s.hold
     ∧ (s.acceptMark src tag).views = s.views ∧ (s.acceptMark src tag).watch = s.watch
     ∧ (s.acceptMark src tag).replay = s.replay ∧ (s.acceptMark src tag).scan = s.scan
     ∧ (s.acceptMark src tag).aborted = s.aborted ∧ (s.acceptMark src tag).up = s.up
     ∧ (s.acceptMark src tag).rstn = s.rstn ∧ (s.acceptMark src tag).eventNo = s.eventNo
     ∧ (s.acceptMark src tag).pending = s.pending := by
  simp [State.acceptMark]

@[simp] theorem raiseMarkRefused_frame (s : State) (src : Source) (tag : MarkTag) (why : MgmtResult) :
    (s.raiseMarkRefused src tag why).eng = s.eng ∧ (s.raiseMarkRefused src tag why).ring = s.ring
     ∧ (s.raiseMarkRefused src tag why).segments = s.segments ∧ (s.raiseMarkRefused src tag why).touch = s.touch
     ∧ (s.raiseMarkRefused src tag why).slots = s.slots ∧ (s.raiseMarkRefused src tag why).stall = s.stall
     ∧ (s.raiseMarkRefused src tag why).timer = s.timer ∧ (s.raiseMarkRefused src tag why).layout = s.layout
     ∧ (s.raiseMarkRefused src tag why).addressing = s.addressing ∧ (s.raiseMarkRefused src tag why).regions = s.regions
     ∧ (s.raiseMarkRefused src tag why).hold = s.hold ∧ (s.raiseMarkRefused src tag why).views = s.views
     ∧ (s.raiseMarkRefused src tag why).watch = s.watch ∧ (s.raiseMarkRefused src tag why).replay = s.replay
     ∧ (s.raiseMarkRefused src tag why).scan = s.scan ∧ (s.raiseMarkRefused src tag why).aborted = s.aborted
     ∧ (s.raiseMarkRefused src tag why).up = s.up ∧ (s.raiseMarkRefused src tag why).down = s.down
     ∧ (s.raiseMarkRefused src tag why).rstn = s.rstn ∧ (s.raiseMarkRefused src tag why).eventNo = s.eventNo
     ∧ (s.raiseMarkRefused src tag why).pending = s.pending :=
  ⟨rfl, rfl, rfl, rfl, rfl, rfl, rfl, rfl, rfl, rfl, rfl, rfl, rfl, rfl, rfl, rfl, rfl, rfl, rfl, rfl, rfl⟩

@[simp] theorem requestMark_frame (s : State) (src : Source) (tag : MarkTag) :
    (s.requestMark src tag).eng = s.eng ∧ (s.requestMark src tag).stall = s.stall
     ∧ (s.requestMark src tag).timer = s.timer ∧ (s.requestMark src tag).layout = s.layout
     ∧ (s.requestMark src tag).addressing = s.addressing ∧ (s.requestMark src tag).regions = s.regions
     ∧ (s.requestMark src tag).hold = s.hold ∧ (s.requestMark src tag).views = s.views
     ∧ (s.requestMark src tag).watch = s.watch ∧ (s.requestMark src tag).replay = s.replay
     ∧ (s.requestMark src tag).scan = s.scan ∧ (s.requestMark src tag).aborted = s.aborted
     ∧ (s.requestMark src tag).up = s.up ∧ (s.requestMark src tag).rstn = s.rstn
     ∧ (s.requestMark src tag).eventNo = s.eventNo ∧ (s.requestMark src tag).pending = s.pending := by
  unfold State.requestMark; try dsimp only
  repeat' split
  all_goals simp

@[simp] theorem setSlot_frame (s : State) (q : Nat) (f : Slot → Slot) :
    (s.setSlot q f).eng = s.eng ∧ (s.setSlot q f).ring = s.ring ∧ (s.setSlot q f).segments = s.segments
     ∧ (s.setSlot q f).touch = s.touch ∧ (s.setSlot q f).stall = s.stall ∧ (s.setSlot q f).timer = s.timer
     ∧ (s.setSlot q f).layout = s.layout ∧ (s.setSlot q f).addressing = s.addressing ∧ (s.setSlot q f).regions = s.regions
     ∧ (s.setSlot q f).hold = s.hold ∧ (s.setSlot q f).views = s.views ∧ (s.setSlot q f).watch = s.watch
     ∧ (s.setSlot q f).replay = s.replay ∧ (s.setSlot q f).scan = s.scan ∧ (s.setSlot q f).aborted = s.aborted
     ∧ (s.setSlot q f).up = s.up ∧ (s.setSlot q f).down = s.down ∧ (s.setSlot q f).port = s.port
     ∧ (s.setSlot q f).rstn = s.rstn ∧ (s.setSlot q f).eventNo = s.eventNo ∧ (s.setSlot q f).pending = s.pending :=
  ⟨rfl, rfl, rfl, rfl, rfl, rfl, rfl, rfl, rfl, rfl, rfl, rfl, rfl, rfl, rfl, rfl, rfl, rfl, rfl, rfl, rfl⟩

@[simp] theorem keepSlots_frame (s : State) (p : Slot → Bool) :
    (s.keepSlots p).eng = s.eng ∧ (s.keepSlots p).ring = s.ring ∧ (s.keepSlots p).segments = s.segments
     ∧ (s.keepSlots p).touch = s.touch ∧ (s.keepSlots p).stall = s.stall ∧ (s.keepSlots p).timer = s.timer
     ∧ (s.keepSlots p).layout = s.layout ∧ (s.keepSlots p).addressing = s.addressing ∧ (s.keepSlots p).regions = s.regions
     ∧ (s.keepSlots p).views = s.views ∧ (s.keepSlots p).watch = s.watch ∧ (s.keepSlots p).replay = s.replay
     ∧ (s.keepSlots p).scan = s.scan ∧ (s.keepSlots p).aborted = s.aborted ∧ (s.keepSlots p).up = s.up
     ∧ (s.keepSlots p).down = s.down ∧ (s.keepSlots p).port = s.port ∧ (s.keepSlots p).rstn = s.rstn
     ∧ (s.keepSlots p).eventNo = s.eventNo ∧ (s.keepSlots p).pending = s.pending := by
  unfold State.keepSlots; try dsimp only
  repeat' split
  all_goals simp

@[simp] theorem freeAbandoned_frame (s : State) :
    s.freeAbandoned.eng = s.eng ∧ s.freeAbandoned.ring = s.ring ∧ s.freeAbandoned.segments = s.segments
     ∧ s.freeAbandoned.touch = s.touch ∧ s.freeAbandoned.stall = s.stall ∧ s.freeAbandoned.timer = s.timer
     ∧ s.freeAbandoned.layout = s.layout ∧ s.freeAbandoned.addressing = s.addressing ∧ s.freeAbandoned.regions = s.regions
     ∧ s.freeAbandoned.views = s.views ∧ s.freeAbandoned.watch = s.watch ∧ s.freeAbandoned.replay = s.replay
     ∧ s.freeAbandoned.scan = s.scan ∧ s.freeAbandoned.aborted = s.aborted ∧ s.freeAbandoned.up = s.up
     ∧ s.freeAbandoned.down = s.down ∧ s.freeAbandoned.port = s.port ∧ s.freeAbandoned.rstn = s.rstn
     ∧ s.freeAbandoned.eventNo = s.eventNo ∧ s.freeAbandoned.pending = s.pending := by
  simp [State.freeAbandoned]

theorem foldl_handForward_frame (l : List Entry) : ∀ s : State,
    (l.foldl (fun t e => t.handForward e.req) s).eng = s.eng ∧ (l.foldl (fun t e => t.handForward e.req) s).ring = s.ring
     ∧ (l.foldl (fun t e => t.handForward e.req) s).segments = s.segments
     ∧ (l.foldl (fun t e => t.handForward e.req) s).touch = s.touch
     ∧ (l.foldl (fun t e => t.handForward e.req) s).slots = s.slots
     ∧ (l.foldl (fun t e => t.handForward e.req) s).stall = s.stall
     ∧ (l.foldl (fun t e => t.handForward e.req) s).timer = s.timer
     ∧ (l.foldl (fun t e => t.handForward e.req) s).layout = s.layout
     ∧ (l.foldl (fun t e => t.handForward e.req) s).addressing = s.addressing
     ∧ (l.foldl (fun t e => t.handForward e.req) s).regions = s.regions
     ∧ (l.foldl (fun t e => t.handForward e.req) s).hold = s.hold
     ∧ (l.foldl (fun t e => t.handForward e.req) s).views = s.views
     ∧ (l.foldl (fun t e => t.handForward e.req) s).watch = s.watch
     ∧ (l.foldl (fun t e => t.handForward e.req) s).replay = s.replay
     ∧ (l.foldl (fun t e => t.handForward e.req) s).scan = s.scan
     ∧ (l.foldl (fun t e => t.handForward e.req) s).aborted = s.aborted
     ∧ (l.foldl (fun t e => t.handForward e.req) s).up = s.up ∧ (l.foldl (fun t e => t.handForward e.req) s).port = s.port
     ∧ (l.foldl (fun t e => t.handForward e.req) s).rstn = s.rstn
     ∧ (l.foldl (fun t e => t.handForward e.req) s).eventNo = s.eventNo
     ∧ (l.foldl (fun t e => t.handForward e.req) s).pending = s.pending := by
  induction l with
  | nil => intro s; exact ⟨rfl, rfl, rfl, rfl, rfl, rfl, rfl, rfl, rfl, rfl, rfl, rfl, rfl, rfl, rfl, rfl, rfl, rfl, rfl, rfl, rfl⟩
  | cons e es ih => intro s; simpa using ih (s.handForward e.req)

@[simp] theorem entryIssued_frame (s : State) (r : Request) :
    (s.entryIssued r).eng = s.eng ∧ (s.entryIssued r).ring = s.ring ∧ (s.entryIssued r).segments = s.segments
     ∧ (s.entryIssued r).touch = s.touch ∧ (s.entryIssued r).stall = s.stall ∧ (s.entryIssued r).timer = s.timer
     ∧ (s.entryIssued r).layout = s.layout ∧ (s.entryIssued r).addressing = s.addressing
     ∧ (s.entryIssued r).regions = s.regions ∧ (s.entryIssued r).views = s.views ∧ (s.entryIssued r).watch = s.watch
     ∧ (s.entryIssued r).replay = s.replay ∧ (s.entryIssued r).scan = s.scan ∧ (s.entryIssued r).aborted = s.aborted
     ∧ (s.entryIssued r).up = s.up ∧ (s.entryIssued r).down = s.down ∧ (s.entryIssued r).port = s.port
     ∧ (s.entryIssued r).rstn = s.rstn ∧ (s.entryIssued r).eventNo = s.eventNo ∧ (s.entryIssued r).pending = s.pending := by
  simp [State.entryIssued]

theorem foldl_entryIssued_frame (l : List Entry) : ∀ s : State,
    (l.foldl (fun u e => u.entryIssued e.req) s).eng = s.eng
     ∧ (l.foldl (fun u e => u.entryIssued e.req) s).ring = s.ring
     ∧ (l.foldl (fun u e => u.entryIssued e.req) s).segments = s.segments
     ∧ (l.foldl (fun u e => u.entryIssued e.req) s).touch = s.touch
     ∧ (l.foldl (fun u e => u.entryIssued e.req) s).stall = s.stall
     ∧ (l.foldl (fun u e => u.entryIssued e.req) s).timer = s.timer
     ∧ (l.foldl (fun u e => u.entryIssued e.req) s).layout = s.layout
     ∧ (l.foldl (fun u e => u.entryIssued e.req) s).addressing = s.addressing
     ∧ (l.foldl (fun u e => u.entryIssued e.req) s).regions = s.regions
     ∧ (l.foldl (fun u e => u.entryIssued e.req) s).views = s.views
     ∧ (l.foldl (fun u e => u.entryIssued e.req) s).watch = s.watch
     ∧ (l.foldl (fun u e => u.entryIssued e.req) s).replay = s.replay
     ∧ (l.foldl (fun u e => u.entryIssued e.req) s).scan = s.scan
     ∧ (l.foldl (fun u e => u.entryIssued e.req) s).aborted = s.aborted
     ∧ (l.foldl (fun u e => u.entryIssued e.req) s).up = s.up
     ∧ (l.foldl (fun u e => u.entryIssued e.req) s).port = s.port
     ∧ (l.foldl (fun u e => u.entryIssued e.req) s).rstn = s.rstn
     ∧ (l.foldl (fun u e => u.entryIssued e.req) s).eventNo = s.eventNo
     ∧ (l.foldl (fun u e => u.entryIssued e.req) s).pending = s.pending
     ∧ (l.foldl (fun u e => u.entryIssued e.req) s).down = s.down := by
  induction l with
  | nil => intro s; exact ⟨rfl, rfl, rfl, rfl, rfl, rfl, rfl, rfl, rfl, rfl, rfl, rfl, rfl, rfl, rfl, rfl, rfl, rfl, rfl, rfl⟩
  | cons e es ih => intro s; simpa using ih (s.entryIssued e.req)

@[simp] theorem forwardHeld_frame (s : State) (p : Entry → Bool) :
    (s.forwardHeld p).eng = s.eng ∧ (s.forwardHeld p).ring = s.ring ∧ (s.forwardHeld p).segments = s.segments
     ∧ (s.forwardHeld p).touch = s.touch ∧ (s.forwardHeld p).stall = s.stall ∧ (s.forwardHeld p).timer = s.timer
     ∧ (s.forwardHeld p).layout = s.layout ∧ (s.forwardHeld p).addressing = s.addressing
     ∧ (s.forwardHeld p).regions = s.regions ∧ (s.forwardHeld p).views = s.views ∧ (s.forwardHeld p).watch = s.watch
     ∧ (s.forwardHeld p).replay = s.replay ∧ (s.forwardHeld p).scan = s.scan ∧ (s.forwardHeld p).aborted = s.aborted
     ∧ (s.forwardHeld p).up = s.up ∧ (s.forwardHeld p).port = s.port ∧ (s.forwardHeld p).rstn = s.rstn
     ∧ (s.forwardHeld p).eventNo = s.eventNo ∧ (s.forwardHeld p).pending = s.pending := by
  unfold State.forwardHeld; dsimp only
  split <;> simp [foldl_handForward_frame, foldl_entryIssued_frame]

@[simp] theorem openingDone_frame (s : State) :
    s.openingDone.ring = s.ring ∧ s.openingDone.segments = s.segments ∧ s.openingDone.touch = s.touch
     ∧ s.openingDone.slots = s.slots ∧ s.openingDone.stall = s.stall ∧ s.openingDone.timer = s.timer
     ∧ s.openingDone.layout = s.layout ∧ s.openingDone.addressing = s.addressing ∧ s.openingDone.regions = s.regions
     ∧ s.openingDone.views = s.views ∧ s.openingDone.watch = s.watch ∧ s.openingDone.replay = s.replay
     ∧ s.openingDone.scan = s.scan ∧ s.openingDone.aborted = s.aborted ∧ s.openingDone.up = s.up
     ∧ s.openingDone.down = s.down ∧ s.openingDone.rstn = s.rstn ∧ s.openingDone.eventNo = s.eventNo
     ∧ s.openingDone.pending = s.pending := by
  simp [State.openingDone]

@[simp] theorem moveFrontier_frame (s : State) (f : Nat) :
    (s.moveFrontier f).segments = s.segments ∧ (s.moveFrontier f).touch = s.touch ∧ (s.moveFrontier f).stall = s.stall
     ∧ (s.moveFrontier f).timer = s.timer ∧ (s.moveFrontier f).layout = s.layout
     ∧ (s.moveFrontier f).addressing = s.addressing ∧ (s.moveFrontier f).regions = s.regions
     ∧ (s.moveFrontier f).views = s.views ∧ (s.moveFrontier f).replay = s.replay ∧ (s.moveFrontier f).scan = s.scan
     ∧ (s.moveFrontier f).aborted = s.aborted ∧ (s.moveFrontier f).up = s.up ∧ (s.moveFrontier f).rstn = s.rstn
     ∧ (s.moveFrontier f).eventNo = s.eventNo ∧ (s.moveFrontier f).pending = s.pending := by
  unfold State.moveFrontier; try dsimp only
  repeat' split
  all_goals simp

@[simp] theorem advanceFrontier_frame (s : State) :
    s.advanceFrontier.segments = s.segments ∧ s.advanceFrontier.touch = s.touch ∧ s.advanceFrontier.stall = s.stall
     ∧ s.advanceFrontier.timer = s.timer ∧ s.advanceFrontier.layout = s.layout
     ∧ s.advanceFrontier.addressing = s.addressing ∧ s.advanceFrontier.regions = s.regions
     ∧ s.advanceFrontier.views = s.views ∧ s.advanceFrontier.replay = s.replay ∧ s.advanceFrontier.scan = s.scan
     ∧ s.advanceFrontier.aborted = s.aborted ∧ s.advanceFrontier.up = s.up ∧ s.advanceFrontier.rstn = s.rstn
     ∧ s.advanceFrontier.eventNo = s.eventNo ∧ s.advanceFrontier.pending = s.pending := by
  unfold State.advanceFrontier; try dsimp only
  repeat' split
  all_goals simp

@[simp] theorem raiseAbandoned_frame (s : State) (m : Nat) :
    (s.raiseAbandoned m).eng = s.eng ∧ (s.raiseAbandoned m).ring = s.ring ∧ (s.raiseAbandoned m).segments = s.segments
     ∧ (s.raiseAbandoned m).touch = s.touch ∧ (s.raiseAbandoned m).slots = s.slots ∧ (s.raiseAbandoned m).stall = s.stall
     ∧ (s.raiseAbandoned m).timer = s.timer ∧ (s.raiseAbandoned m).layout = s.layout
     ∧ (s.raiseAbandoned m).addressing = s.addressing ∧ (s.raiseAbandoned m).regions = s.regions
     ∧ (s.raiseAbandoned m).hold = s.hold ∧ (s.raiseAbandoned m).views = s.views ∧ (s.raiseAbandoned m).watch = s.watch
     ∧ (s.raiseAbandoned m).replay = s.replay ∧ (s.raiseAbandoned m).scan = s.scan
     ∧ (s.raiseAbandoned m).aborted = s.aborted ∧ (s.raiseAbandoned m).up = s.up ∧ (s.raiseAbandoned m).down = s.down
     ∧ (s.raiseAbandoned m).rstn = s.rstn ∧ (s.raiseAbandoned m).eventNo = s.eventNo
     ∧ (s.raiseAbandoned m).pending = s.pending :=
  ⟨rfl, rfl, rfl, rfl, rfl, rfl, rfl, rfl, rfl, rfl, rfl, rfl, rfl, rfl, rfl, rfl, rfl, rfl, rfl, rfl, rfl⟩

@[simp] theorem quiesceFault_frame (s : State) (c : Cause) :
    (s.quiesceFault c).ring = s.ring ∧ (s.quiesceFault c).segments = s.segments ∧ (s.quiesceFault c).timer = s.timer
     ∧ (s.quiesceFault c).layout = s.layout ∧ (s.quiesceFault c).addressing = s.addressing
     ∧ (s.quiesceFault c).regions = s.regions ∧ (s.quiesceFault c).views = s.views ∧ (s.quiesceFault c).replay = s.replay
     ∧ (s.quiesceFault c).scan = s.scan ∧ (s.quiesceFault c).aborted = s.aborted ∧ (s.quiesceFault c).up = s.up
     ∧ (s.quiesceFault c).rstn = s.rstn ∧ (s.quiesceFault c).eventNo = s.eventNo ∧ (s.quiesceFault c).pending = s.pending := by
  unfold State.quiesceFault; try dsimp only
  repeat' split
  all_goals simp

@[simp] theorem journalFault_frame (s : State) (c : Cause) :
    (s.journalFault c).ring = s.ring ∧ (s.journalFault c).segments = s.segments ∧ (s.journalFault c).timer = s.timer
     ∧ (s.journalFault c).layout = s.layout ∧ (s.journalFault c).addressing = s.addressing
     ∧ (s.journalFault c).regions = s.regions ∧ (s.journalFault c).views = s.views ∧ (s.journalFault c).replay = s.replay
     ∧ (s.journalFault c).scan = s.scan ∧ (s.journalFault c).aborted = s.aborted ∧ (s.journalFault c).up = s.up
     ∧ (s.journalFault c).rstn = s.rstn ∧ (s.journalFault c).eventNo = s.eventNo ∧ (s.journalFault c).pending = s.pending := by
  unfold State.journalFault; try dsimp only
  repeat' split
  all_goals simp

@[simp] theorem raiseHead_frame (s : State) (h : Nat) :
    (s.raiseHead h).touch = s.touch ∧ (s.raiseHead h).slots = s.slots ∧ (s.raiseHead h).timer = s.timer
     ∧ (s.raiseHead h).layout = s.layout ∧ (s.raiseHead h).addressing = s.addressing ∧ (s.raiseHead h).regions = s.regions
     ∧ (s.raiseHead h).views = s.views ∧ (s.raiseHead h).watch = s.watch ∧ (s.raiseHead h).replay = s.replay
     ∧ (s.raiseHead h).scan = s.scan ∧ (s.raiseHead h).aborted = s.aborted ∧ (s.raiseHead h).up = s.up
     ∧ (s.raiseHead h).down = s.down ∧ (s.raiseHead h).port = s.port ∧ (s.raiseHead h).rstn = s.rstn
     ∧ (s.raiseHead h).eventNo = s.eventNo ∧ (s.raiseHead h).pending = s.pending := by
  unfold State.raiseHead; try dsimp only
  repeat' split
  all_goals simp

@[simp] theorem release_frame (s : State) (v : Nat) (e : Epoch) :
    (s.release v e).touch = s.touch ∧ (s.release v e).slots = s.slots ∧ (s.release v e).timer = s.timer
     ∧ (s.release v e).layout = s.layout ∧ (s.release v e).addressing = s.addressing ∧ (s.release v e).regions = s.regions
     ∧ (s.release v e).views = s.views ∧ (s.release v e).watch = s.watch ∧ (s.release v e).replay = s.replay
     ∧ (s.release v e).scan = s.scan ∧ (s.release v e).aborted = s.aborted ∧ (s.release v e).up = s.up
     ∧ (s.release v e).down = s.down ∧ (s.release v e).rstn = s.rstn ∧ (s.release v e).eventNo = s.eventNo
     ∧ (s.release v e).pending = s.pending := by
  unfold State.release; try dsimp only
  repeat' split
  all_goals simp

@[simp] theorem watchAction_frame (s : State) (r : Request) :
    (s.watchAction r).timer = s.timer ∧ (s.watchAction r).layout = s.layout ∧ (s.watchAction r).addressing = s.addressing
     ∧ (s.watchAction r).regions = s.regions ∧ (s.watchAction r).views = s.views ∧ (s.watchAction r).watch = s.watch
     ∧ (s.watchAction r).replay = s.replay ∧ (s.watchAction r).scan = s.scan ∧ (s.watchAction r).aborted = s.aborted
     ∧ (s.watchAction r).up = s.up ∧ (s.watchAction r).rstn = s.rstn ∧ (s.watchAction r).eventNo = s.eventNo
     ∧ (s.watchAction r).pending = s.pending := by
  unfold State.watchAction; try dsimp only
  repeat' split
  all_goals simp

@[simp] theorem reply_frame (s : State) (r : MgmtResult) (d : List Byte) :
    (s.reply r d).eng = s.eng ∧ (s.reply r d).ring = s.ring ∧ (s.reply r d).segments = s.segments
     ∧ (s.reply r d).touch = s.touch ∧ (s.reply r d).slots = s.slots ∧ (s.reply r d).stall = s.stall
     ∧ (s.reply r d).timer = s.timer ∧ (s.reply r d).layout = s.layout ∧ (s.reply r d).addressing = s.addressing
     ∧ (s.reply r d).regions = s.regions ∧ (s.reply r d).hold = s.hold ∧ (s.reply r d).views = s.views
     ∧ (s.reply r d).watch = s.watch ∧ (s.reply r d).replay = s.replay ∧ (s.reply r d).scan = s.scan
     ∧ (s.reply r d).aborted = s.aborted ∧ (s.reply r d).up = s.up ∧ (s.reply r d).down = s.down
     ∧ (s.reply r d).rstn = s.rstn ∧ (s.reply r d).eventNo = s.eventNo ∧ (s.reply r d).pending = s.pending :=
  ⟨rfl, rfl, rfl, rfl, rfl, rfl, rfl, rfl, rfl, rfl, rfl, rfl, rfl, rfl, rfl, rfl, rfl, rfl, rfl, rfl, rfl⟩

/-! ## What the operations change -/

@[simp] theorem nextEvent_eventNo (s : State) : s.nextEvent.eventNo = s.eventNo + 1 := rfl

@[simp] theorem answer_up (s : State) (tag : UpTag) (st : LinkStatus) (d : Option Line) :
    (s.answer tag st d).up = s.up.answer { tag := tag, status := st, data := d } := rfl

@[simp] theorem freeTag_down (s : State) (t : DownTag) :
    (s.freeTag t).down = { s.down with issued := s.down.issued.filter fun q => q.tag ≠ t } := rfl

@[simp] theorem hand_down (s : State) (t : DownTag) (op : LinkOp) (a : Addr) (m : Mask) (o : Owner) :
    (s.hand t op a m o).down =
      s.down.hand [{ tag := t, op := op, addr := a, mask := m, owner := o, event := s.eventNo }] := rfl

@[simp] theorem handOwn_down (s : State) (op : LinkOp) (a : Addr) (m : Mask) (o : Owner) :
    (s.handOwn op a m o).down =
      s.down.hand [{ tag := s.down.freeTag, op := op, addr := a, mask := m, owner := o, event := s.eventNo }] := rfl

@[simp] theorem handForward_down (s : State) (r : Request) : (s.handForward r).down = s.down.hand [s.forwardOf r] := rfl

@[simp] theorem hand_ready (d : DownLink) (l : List DownRequest) : (d.hand l).ready = d.ready := by
  unfold DownLink.hand; split <;> rfl

@[simp] theorem hand_nil (d : DownLink) : d.hand [] = d := by
  unfold DownLink.hand; split <;> simp

/-- Whether memory takes requests at once is the same for every request that one event hands. -/
@[simp] theorem hand_takesAtOnce (d : DownLink) (l : List DownRequest) : (d.hand l).takesAtOnce = d.takesAtOnce := by
  unfold DownLink.hand; split
  · rfl
  · rename_i h
    cases hr : d.ready
    · simp [DownLink.takesAtOnce, hr]
    · cases hl : d.toIssue with
      | nil => simp [DownLink.takesAtOnce, hr, hl] at h
      | cons q qs => simp [DownLink.takesAtOnce, hl]

/-- Requests handed one after another are handed together. -/
@[simp] theorem hand_hand (d : DownLink) (l m : List DownRequest) : (d.hand l).hand m = d.hand (l ++ m) := by
  by_cases h : d.takesAtOnce = true
  · have h' : ({ d with issued := d.issued ++ l } : DownLink).takesAtOnce = true := h
    simp [DownLink.hand, h, h']
  · have h' := hand_takesAtOnce d l
    simp only [DownLink.hand, h, if_false, Bool.false_eq_true] at h' ⊢
    simp [h']

@[simp] theorem wake_hold (s : State) (p : Wait → Bool) :
    (s.wake p).hold = { s.hold with queue := wakeEntries p s.hold.queue } := rfl

@[simp] theorem leave_hold (s : State) (r : Request) :
    (s.leave r).hold = { s.hold with queue := wakeLine r.line (s.hold.queue.filter fun e => e.req.tag ≠ r.tag) } := rfl

@[simp] theorem raise_port (s : State) (k : EventKind) (q d n : Option Nat) :
    (s.raise k q d n).port = s.port.append { kind := k, state := s.eng.state, seq := q, detail := d, count := n } := rfl

@[simp] theorem setEngine_eng (s : State) (e : EngineState) : (s.setEngine e).eng = { s.eng with state := e } := rfl

@[simp] theorem setSlot_slots (s : State) (q : Nat) (f : Slot → Slot) :
    (s.setSlot q f).slots = s.slots.map fun j => if j.header.seq = q then f j else j := rfl

@[simp] theorem assign_slots (s : State) (j : Slot) : (s.assign j).slots = s.slots ++ [j] := rfl

@[simp] theorem assign_tail (s : State) (j : Slot) : (s.assign j).ring.tail = s.ring.tail + 1 := rfl

@[simp] theorem assign_head (s : State) (j : Slot) : (s.assign j).ring.head = s.ring.head := rfl

@[simp] theorem assign_frontier (s : State) (j : Slot) : (s.assign j).ring.frontier = s.ring.frontier := rfl

@[simp] theorem acceptMark_tail (s : State) (src : Source) (tag : MarkTag) :
    (s.acceptMark src tag).ring.tail = s.ring.tail + 1 := rfl

@[simp] theorem acceptMark_segments (s : State) (src : Source) (tag : MarkTag) :
    (s.acceptMark src tag).segments = s.segments ++ [{ seq := s.ring.tail, tag := tag, source := src }] := rfl

@[simp] theorem acceptMark_touch (s : State) (src : Source) (tag : MarkTag) : (s.acceptMark src tag).touch = Touch.empty := rfl

@[simp] theorem enterBroken_eng (s : State) (c : Cause) :
    (s.enterBroken c).eng = { s.eng with state := .broken, cause := some (s.eng.cause.getD c) } := by
  simp [State.enterBroken, State.wake, State.breakJournal, State.raiseBroken]

@[simp] theorem enterBroken_touch (s : State) (c : Cause) : (s.enterBroken c).touch = Touch.empty := by
  simp [State.enterBroken, State.wake, State.breakJournal, State.raiseBroken]

@[simp] theorem enterBroken_slots (s : State) (c : Cause) : (s.enterBroken c).slots = abandonSlots s.slots := by
  simp [State.enterBroken, State.wake, State.breakJournal, State.raiseBroken]

@[simp] theorem reply_port (s : State) (res : MgmtResult) (data : List Byte) :
    (s.reply res data).port = { s.port with frame := some { result := res, data := data, removesEvent := false } } := rfl

end Sys2Proof.Machine
end

