-- ==== Sys2Proof/Laws/Ops.lean ====
section
/-! SUPPORT. One lemma a shared operation that says what it can do: taking a command, delivering a response, answering
upstream, queueing an event, ending an event. Proofs cite these and do not unfold the operations. -/

namespace Sys2Proof.Machine

/-! ## Assigning a marker -/

/-- What the acceptance of a marker does, once for every source (R29). -/
theorem acceptMark_marked (s : State) (src : Source) (tag : MarkTag) : s.acceptMark src tag = s.marked src tag := by
  by_cases high : s.layout.highWater * 2 ^ s.layout.order / 8 ≤ s.ring.tail + 1 - s.ring.head <;> cases armed : s.ring.highArmed <;>
    simp [State.acceptMark, State.marked, State.assign, State.occupancyChanged, State.handHeader, State.markHeader, headerSlot,
      State.isHigh, State.occupancy, Layout.threshold, Layout.capacity, State.raise, Touch.empty, Layout.headerAddr, fullMask,
      high, armed]

/-! ## Taking a command -/

theorem running_of_high {s : State} (h : s.rstn = true) (f : State → State) : s.running f = .next (f s.nextEvent) := by
  simp [State.running, h]

theorem running_of_low {s : State} (h : s.rstn = false) (f : State → State) : s.running f = .next s := by
  simp [State.running, h]

theorem running_next (s : State) (f : State → State) : ∃ t, s.running f = .next t := by
  unfold State.running; split <;> exact ⟨_, rfl⟩

theorem memoryResponse_of_issued {s : State} {r : MemResponse} {q : DownRequest} (h : s.rstn = true)
    (hq : s.down.issuedWith r.tag = some q) :
    s.memoryResponse r = .next ((s.taking r.tag).deliver q r).finish := by
  simp only [State.memoryResponse, h, hq]; rfl

theorem memoryResponse_of_stray {s : State} {r : MemResponse} (h : s.rstn = true)
    (hi : s.down.issuedWith r.tag = none) (hu : s.down.inUse r.tag = false) :
    s.memoryResponse r = .next s.nextEvent := by
  simp [State.memoryResponse, h, hi, hu]

theorem memoryResponse_of_untaken {s : State} {r : MemResponse} (h : s.rstn = true)
    (hi : s.down.issuedWith r.tag = none) (hu : s.down.inUse r.tag = true) :
    s.memoryResponse r = .fault .memoryContract := by
  simp [State.memoryResponse, h, hi, hu]

theorem memoryResponse_of_low {s : State} {r : MemResponse} (h : s.rstn = false) : s.memoryResponse r = .next s := by
  simp [State.memoryResponse, h]

theorem exec_response {c : Instr} {r : MemResponse} (h : responseOf c = some r) (s : State) : exec c s = s.memoryResponse r := by
  cases c <;> simp_all [responseOf] <;> rfl

/-! ## The end of an event -/

theorem settleQueue_of_quiet {s : State} (h : s.firstReady = none)
    (hw : s.hold.waiting = none ∨ Config.holdPlaces ≤ s.hold.queue.length) (n : Nat) : State.settleQueue n s = s := by
  cases n with
  | zero => rfl
  | succ n =>
    rcases hw with hw | hw
    · simp [State.settleQueue, h, hw]
    · unfold State.settleQueue
      simp only [h]
      split
      · rfl
      · simp [Nat.not_lt.mpr hw]

theorem checkQuiesce_of_not_due {s : State} (h : s.quiesceDue = false) : s.checkQuiesce = s := by simp [State.checkQuiesce, h]

theorem checkReset_of_not_due {s : State} (h : s.resetDue = false) : s.checkReset = s := by simp [State.checkReset, h]

theorem settle_of_quiet {s : State} (h : s.firstReady = none)
    (hw : s.hold.waiting = none ∨ Config.holdPlaces ≤ s.hold.queue.length) : s.settle = s := settleQueue_of_quiet h hw _

theorem finish_of_settled {s : State} (h : s.Settled) : s.finish = s := by
  rw [State.finish, checkQuiesce_of_not_due h.quiesce, settle_of_quiet h.ready h.waiting, checkReset_of_not_due h.reset]

/-- An event that leaves the hold queue as it was in a settled state, and neither quiescing nor a soft reset to end, has no
more to do. -/
theorem finish_of_same {s t : State} (h : s.Settled) (hh : t.hold = s.hold) (hq : t.quiesceDue = false)
    (hr : t.resetDue = false) : t.finish = t :=
  finish_of_settled
    { ready := by simpa [State.firstReady, hh] using h.ready, waiting := by simpa [hh] using h.waiting, quiesce := hq, reset := hr }

theorem settled_of_same {s t : State} (h : s.Settled) (hh : t.hold = s.hold) (he : t.eng = s.eng) (hs : t.slots = s.slots)
    (hr : t.eng.state ≠ .resetting) : t.Settled where
  ready := by simpa [State.firstReady, hh] using h.ready
  waiting := by simpa [hh] using h.waiting
  quiesce := by simpa [State.quiesceDue, he, hs] using h.quiesce
  reset := by simp [State.resetDue, hr]

/-- What every decision of an entry and every new offer of the waiting request keep, the end of the deciding keeps. -/
theorem settleQueue_keeps {P : State → Prop} (hd : ∀ s e, P s → s.firstReady = some e → P (s.decideEntry e.req))
    (ho : ∀ s r, P s → s.hold.waiting = some r → P (State.submit { s with hold := { s.hold with waiting := none } } r))
    (n : Nat) (s : State) (h : P s) : P (State.settleQueue n s) := by
  induction n generalizing s with
  | zero => exact h
  | succ n ih =>
    unfold State.settleQueue
    split
    · rename_i e he; exact ih _ (hd s e h he)
    · split
      · exact h
      · rename_i r hr
        split
        · exact ih _ (ho s r h hr)
        · exact h

/-- The end of an event keeps what its parts keep. -/
theorem finish_keeps {P : State → Prop} (hd : ∀ s e, P s → s.firstReady = some e → P (s.decideEntry e.req))
    (ho : ∀ s r, P s → s.hold.waiting = some r → P (State.submit { s with hold := { s.hold with waiting := none } } r))
    (hq : ∀ s, P s → s.quiesceDue = true → P s.endQuiesce) (hr : ∀ s, P s → s.resetDue = true → P s.endSoftReset)
    (s : State) (h : P s) : P s.finish := by
  have h1 : P s.checkQuiesce := by
    unfold State.checkQuiesce; split
    · exact hq s h ‹_›
    · exact h
  have h2 : P s.checkQuiesce.settle := settleQueue_keeps hd ho _ _ h1
  unfold State.finish State.checkReset; split
  · exact hr _ h2 ‹_›
  · exact h2

/-! ## Answers and events -/

theorem answer_ready {u : UpLink} (h : u.respReady = true) (r : UpResponse) :
    u.answer r = { u with tags := u.tags.erase r.tag, sent := u.sent ++ [r] } := by
  simp [UpLink.answer, h]

theorem answer_withheld {u : UpLink} (h : u.respReady = false) (r : UpResponse) :
    u.answer r = { u with respWaiting := u.respWaiting ++ [r] } := by
  simp [UpLink.answer, h]

theorem append_queued {p : Port} {r : EventRecord} (he : p.enables r.kind = true) (hl : p.events.length < Config.eventPlaces) :
    p.append r = { p with events := p.events ++ [r] } := by
  simp [Port.append, he, hl, Nat.not_le.mpr hl]

theorem append_dropped {p : Port} {r : EventRecord} (he : p.enables r.kind = true) (hl : Config.eventPlaces ≤ p.events.length) :
    p.append r = { p with overflow := true } := by
  simp [Port.append, he, hl, Nat.not_lt.mpr hl]

theorem append_masked {p : Port} {r : EventRecord} (he : p.enables r.kind = false) : p.append r = p := by
  simp [Port.append, he]

theorem append_length_le {p : Port} (r : EventRecord) (h : p.events.length ≤ Config.eventPlaces) :
    (p.append r).events.length ≤ Config.eventPlaces := by
  simp only [Port.append]; split
  · simp_all
  · exact h

/-! ## The hold queue -/

@[simp] theorem wakeEntries_length (p : Wait → Bool) (q : List Entry) : (wakeEntries p q).length = q.length := by
  simp [wakeEntries]

@[simp] theorem wakeLine_length (x : Addr) (q : List Entry) : (wakeLine x q).length = q.length := by
  induction q with
  | nil => rfl
  | cons e es ih => unfold wakeLine; split <;> simp [ih]

@[simp] theorem setWait_length (s : State) (tag : UpTag) (w : Wait) :
    (s.setWait tag w).hold.queue.length = s.hold.queue.length := by simp [State.setWait]

theorem leave_length_le (s : State) (r : Request) : (s.leave r).hold.queue.length ≤ s.hold.queue.length := by
  simp only [State.leave, wakeLine_length]; exact List.length_filter_le ..

theorem enter_length_le {s : State} (r : Request) (w : Wait) (h : s.hold.queue.length ≤ Config.holdPlaces) :
    (s.enter r w).hold.queue.length ≤ Config.holdPlaces := by
  simp only [State.enter]; split
  · simp; omega
  · exact h

theorem abandonSlots_length_le (l : List Slot) : (abandonSlots l).length ≤ l.length := by
  simp only [abandonSlots, List.length_map]; exact List.length_filter_le ..

/-! ## Handing and forwarding -/

theorem hand_atOnce {d : DownLink} (h : d.takesAtOnce = true) (l : List DownRequest) :
    d.hand l = { d with issued := d.issued ++ l } := by simp [DownLink.hand, h]

theorem hand_waiting {d : DownLink} (h : d.takesAtOnce = false) (l : List DownRequest) :
    d.hand l = { d with toIssue := d.toIssue ++ l } := by simp [DownLink.hand, h]

/-- A queued request that is forwarded and issued at once leaves the queue (R67). -/
theorem forwardRequest_issued {s : State} (h : s.down.takesAtOnce = true) (r : Request) :
    s.forwardRequest true r = (s.handForward r).leave r := by simp [State.forwardRequest, h]

/-- A queued request that is forwarded and not issued keeps its place (R67). -/
theorem forwardRequest_waiting {s : State} (h : s.down.takesAtOnce = false) (r : Request) :
    s.forwardRequest true r = (s.handForward r).setWait r.tag .issue := by simp [State.forwardRequest, h]

/-- A request that is forwarded on arrival is the pending forward unless it is issued at once (R176). -/
theorem forwardRequest_arrival (s : State) (r : Request) :
    s.forwardRequest false r = if s.down.takesAtOnce then s.handForward r
      else { s.handForward r with up := { s.up with pendingForward := some r.tag } } := by
  cases h : s.down.takesAtOnce <;> simp [State.forwardRequest, h]

/-! ## The frontier -/

theorem frontierFrom_ge (l : List Slot) (n : Nat) (f : Nat) : f ≤ frontierFrom l n f := by
  induction n generalizing f with
  | zero => exact Nat.le_refl f
  | succ n ih => unfold frontierFrom; split
                 · exact Nat.le_of_succ_le (ih (f + 1))
                 · exact Nat.le_refl f

theorem frontierFrom_le (l : List Slot) (n : Nat) (f : Nat) : frontierFrom l n f ≤ f + n := by
  induction n generalizing f with
  | zero => exact Nat.le_refl f
  | succ n ih => unfold frontierFrom; split
                 · have := ih (f + 1); omega
                 · omega

/-- Every record that F passes is complete (R13). -/
theorem frontierFrom_complete (l : List Slot) (n : Nat) (f q : Nat) (h : f ≤ q) (h' : q < frontierFrom l n f) :
    l.any (fun j => decide (j.header.seq = q) && j.complete) = true := by
  induction n generalizing f with
  | zero => simp [frontierFrom] at h'; omega
  | succ n ih =>
    unfold frontierFrom at h'
    split at h'
    · rename_i hc
      rcases Nat.lt_or_ge f q with hlt | hge
      · exact ih (f + 1) hlt h'
      · have : q = f := Nat.le_antisymm hge h
        subst this; exact hc
    · omega

end Sys2Proof.Machine
end

