-- ==== Sys2Proof/Laws/Links.lean ====
section
/-! SUPPORT. What an upstream request comes to, up to the hold queue's decision (R53, R63, R172): the provers cite these and do
not unfold classification. -/

namespace Sys2Proof.Machine

theorem ready_of_upReady {s : State} (h : s.upReady = true) :
    s.hold.waiting = none ∧ s.up.pendingForward = none ∧ s.eng.state ≠ .resetting ∧ s.rstn = true := by
  simp [State.upReady] at h; tauto

theorem exec_request_of_new {s : State} {r : UpRequest} (h : s.upReady = true) (ht : r.tag ∉ s.up.tags) :
    exec (.upstreamRequest r) s = .next ((s.withTag r).classify r).finish := by
  simp only [exec, execUpstreamRequest, h, if_true, State.takeRequest]
  rw [if_neg (by exact ht)]; rfl

/-- An aligned request with a non-empty mask that steps 4, 6 and 7 do not refuse is handed to the hold queue. -/
theorem classify_submits {s : State} {r : UpRequest} (ha : r.addr.toNat % 64 = 0) (hm : r.mask ≠ 0)
    (hw : ∀ d, r.op = .write d →
      s.addressing.viewFlag r.addr = false ∧ s.refusesWrite (s.addressing.canonical r.addr) = false) :
    (s.withTag r).classify r = (s.withTag r).submit (s.heldRequest r) := by
  unfold State.classify
  rw [if_neg (by simpa using ha), if_neg hm]
  cases hq : r.op with
  | write d =>
    have := hw d hq
    simp only [show (s.withTag r).addressing = s.addressing from rfl, this.1,
      show (s.withTag r).refusesWrite _ = s.refusesWrite _ from rfl, this.2, if_false, Bool.false_eq_true]
    simp [State.classified, State.heldRequest, hq]; rfl
  | read =>
    simp only [show (s.withTag r).addressing = s.addressing from rfl]
    by_cases hv : s.addressing.viewFlag r.addr = true
    · simp [State.classified, State.heldRequest, hq, hv]; rfl
    · simp [State.classified, State.heldRequest, hq, hv]; rfl

theorem submit_of_first {s : State} {q : Request} (h : ∀ e ∈ s.hold.queue, e.req.line ≠ q.line) :
    s.submit q = s.decideArrival q := by
  unfold State.submit; rw [if_neg]; simpa using h

theorem submit_of_behind {s : State} {q : Request} (h : ∃ e ∈ s.hold.queue, e.req.line = q.line) :
    s.submit q = s.enter q .line := by
  unfold State.submit; rw [if_pos]; simpa using h

/-- A request that no entry for its line precedes is decided on arrival. -/
theorem exec_request_of_first {s : State} {r : UpRequest} (h : s.upReady = true) (ht : r.tag ∉ s.up.tags)
    (ha : r.addr.toNat % 64 = 0) (hm : r.mask ≠ 0)
    (hw : ∀ d, r.op = .write d →
      s.addressing.viewFlag r.addr = false ∧ s.refusesWrite (s.addressing.canonical r.addr) = false)
    (hn : ∀ e ∈ s.hold.queue, e.req.line ≠ s.addressing.canonical r.addr) :
    exec (.upstreamRequest r) s = .next ((s.withTag r).decideArrival (s.heldRequest r)).finish := by
  rw [exec_request_of_new h ht, classify_submits ha hm hw, submit_of_first hn]

/-- An event that has entered one entry at the end of a settled queue has no more to do. -/
theorem finish_of_entered {s t : State} {e : Entry} (hs : s.Settled) (hw : s.hold.waiting = none)
    (hh : t.hold = { s.hold with queue := s.hold.queue ++ [e] }) (he : e.wait ≠ .ready) (hq : t.quiesceDue = false)
    (hr : t.resetDue = false) : t.finish = t := by
  apply finish_of_settled
  refine ⟨?_, ?_, hq, hr⟩
  · have := hs.ready
    simp only [State.firstReady, hh, List.find?_append] at this ⊢
    simp [this, he]
  · left; simp [hh, hw]

end Sys2Proof.Machine
end

