-- ==== Sys2Proof/Laws/PerInstr.lean ====
section
/-! SUPPORT. What holds of every command as syntax, one lemma a constructor: the bytes of a frame are one command byte and the
argument bytes that the table of 11.2 gives the code, or the byte alone where it is no code. -/

/-- A well-formed command's frame is its command byte and as many bytes more as the code takes (R182, R183). -/
def Sys2Proof.Laws.FrameLength.Statement (i : Sys2Proof.Instr) : Prop :=
  i.wellFormed = true → ∀ b, Sys2Proof.frameBytes i = some b →
    ∃ code args, b = code :: args ∧ args.length = (Sys2Proof.argCount code).getD 0

namespace Sys2Proof.Laws.FrameLength

theorem upstreamRequest (r : UpRequest) : Statement (.upstreamRequest r) := by
  intro _ b h; cases h

theorem upstreamResponseReady : Statement .upstreamResponseReady := by
  intro _ b h; cases h

theorem downstreamIssue (a : IssueArgs) : Statement (.downstreamIssue a) := by
  intro _ b h; cases h

theorem forwardedResponse (r : MemResponse) : Statement (.forwardedResponse r) := by
  intro _ b h; cases h

theorem oldDataResponse (r : MemResponse) : Statement (.oldDataResponse r) := by
  intro _ b h; cases h

theorem recordWriteAck (r : MemResponse) : Statement (.recordWriteAck r) := by
  intro _ b h; cases h

theorem statusWriteResponse (r : MemResponse) : Statement (.statusWriteResponse r) := by
  intro _ b h; cases h

theorem startControlReadResponse (r : MemResponse) : Statement (.startControlReadResponse r) := by
  intro _ b h; cases h

theorem recoverControlReadResponse (r : MemResponse) : Statement (.recoverControlReadResponse r) := by
  intro _ b h; cases h

theorem viewReaderResponse (r : MemResponse) : Statement (.viewReaderResponse r) := by
  intro _ b h; cases h

theorem replayReadResponse (r : MemResponse) : Statement (.replayReadResponse r) := by
  intro _ b h; cases h

theorem restoringWriteAck (r : MemResponse) : Statement (.restoringWriteAck r) := by
  intro _ b h; cases h

theorem scanReadResponse (r : MemResponse) : Statement (.scanReadResponse r) := by
  intro _ b h; cases h

theorem strayResponse (r : MemResponse) : Statement (.strayResponse r) := by
  intro _ b h; cases h

theorem markTimerExpiry : Statement .markTimerExpiry := by
  intro _ b h; cases h

theorem stallTimerExpiry : Statement .stallTimerExpiry := by
  intro _ b h; cases h

theorem powerOnReset : Statement .powerOnReset := by
  intro _ b h; cases h

theorem frameEnd (dataBytes : Nat) : Statement (.frameEnd dataBytes) := by
  intro _ b h; cases h

theorem readId : Statement .readId := by
  intro _ b h; cases h; exact ⟨_, _, rfl, rfl⟩

theorem readStatus : Statement .readStatus := by
  intro _ b h; cases h; exact ⟨_, _, rfl, rfl⟩

theorem readEvent : Statement .readEvent := by
  intro _ b h; cases h; exact ⟨_, _, rfl, rfl⟩

theorem readSegments : Statement .readSegments := by
  intro _ b h; cases h; exact ⟨_, _, rfl, rfl⟩

theorem readRegion (index : Byte) : Statement (.readRegion index) := by
  intro _ b h; cases h; exact ⟨_, _, rfl, rfl⟩

theorem setLayout (a : LayoutArgs) : Statement (.setLayout a) := by
  intro _ b h; cases h; exact ⟨_, _, rfl, rfl⟩

theorem setAddressing (fold : BitVec 16) (view : Byte) : Statement (.setAddressing fold view) := by
  intro _ b h; cases h; exact ⟨_, _, rfl, rfl⟩

theorem writeRegion (a : RegionArgs) : Statement (.writeRegion a) := by
  intro _ b h; cases h; exact ⟨_, _, rfl, rfl⟩

theorem setTimer (tick : Byte) (compare : BitVec 16) (enable : Byte) : Statement (.setTimer tick compare enable) := by
  intro _ b h; cases h; exact ⟨_, _, rfl, rfl⟩

theorem setEventMask (mask : BitVec 16) : Statement (.setEventMask mask) := by
  intro _ b h; cases h; exact ⟨_, _, rfl, rfl⟩

theorem start : Statement .start := by
  intro _ b h; cases h; exact ⟨_, _, rfl, rfl⟩

theorem commit : Statement .commit := by
  intro _ b h; cases h; exact ⟨_, _, rfl, rfl⟩

theorem mark (tag : MarkTag) : Statement (.mark tag) := by
  intro _ b h; cases h; exact ⟨_, _, rfl, rfl⟩

theorem rollback (kind : Byte) (seq : BitVec 64) : Statement (.rollback kind seq) := by
  intro _ b h; cases h; exact ⟨_, _, rfl, rfl⟩

theorem stop : Statement .stop := by
  intro _ b h; cases h; exact ⟨_, _, rfl, rfl⟩

theorem recover : Statement .recover := by
  intro _ b h; cases h; exact ⟨_, _, rfl, rfl⟩

theorem softReset : Statement .softReset := by
  intro _ b h; cases h; exact ⟨_, _, rfl, rfl⟩

theorem unknown (code : Byte) : Statement (.unknown code) := by
  intro w b h; cases h
  exact ⟨_, _, rfl, by simp [Option.isNone_iff_eq_none.mp (show (argCount code).isNone = true from w)]⟩

theorem openRecordAssign : Statement .openRecordAssign := by
  intro _ b h; cases h

theorem quiesceEnd : Statement .quiesceEnd := by
  intro _ b h; cases h

theorem replayStart : Statement .replayStart := by
  intro _ b h; cases h

theorem rollbackEnd : Statement .rollbackEnd := by
  intro _ b h; cases h

theorem closingEnd : Statement .closingEnd := by
  intro _ b h; cases h

theorem scanEnd : Statement .scanEnd := by
  intro _ b h; cases h

theorem softResetEnd : Statement .softResetEnd := by
  intro _ b h; cases h

theorem rstnFalls : Statement .rstnFalls := by
  intro _ b h; cases h

theorem responseReadyWithheld : Statement .responseReadyWithheld := by
  intro _ b h; cases h

end Sys2Proof.Laws.FrameLength
end

