-- ==== Sys2Proof/Laws/Settle.lean ====
section
/-! SUPPORT. The decisions of one event come to an end: State.settleFuel suffices, so what an event leaves is settled, and
the entries are decided one after another. Each decision takes an entry out of the deciding for good, or holds it. -/

namespace Sys2Proof.Machine

/-! ## Counting the entries -/

/-- Entries that have not been handed downstream. -/
def liveCount (q : List Entry) : Nat := q.countP fun e => decide (e.wait ≠ .issue)

/-- Entries to be decided in this event. -/
def readyCount (q : List Entry) : Nat := q.countP fun e => decide (e.wait = .ready)

theorem countP_map_le {α : Type} {p p' : α → Bool} {f : α → α} (h : ∀ e, p (f e) = true → p' e = true) (q : List α) :
    (q.map f).countP p ≤ q.countP p' := by
  rw [List.countP_map]; exact List.countP_mono_left fun e _ he => h e he

theorem countP_map_lt {α : Type} {p p' : α → Bool} {f : α → α} (h : ∀ e, p (f e) = true → p' e = true) {q : List α} {x : α}
    (hx : x ∈ q) (hp : p' x = true) (hf : p (f x) = false) : (q.map f).countP p < q.countP p' := by
  induction q with
  | nil => cases hx
  | cons e es ih =>
    rw [List.map_cons, List.countP_cons, List.countP_cons]
    have hle := countP_map_le h es
    rcases List.mem_cons.mp hx with rfl | hx
    · rw [hp, hf, if_pos rfl, if_neg (by simp)]; omega
    · have := ih hx
      by_cases h1 : p (f e) = true
      · rw [h1, h e h1]; omega
      · rw [if_neg h1]; omega

theorem readyCount_le_liveCount (q : List Entry) : readyCount q ≤ liveCount q :=
  List.countP_mono_left fun e _ he => by simp at he ⊢; simp [he]

theorem liveCount_le_length (q : List Entry) : liveCount q ≤ q.length := List.countP_le_length

theorem liveCount_wakeEntries {p : Wait → Bool} (h : p .issue = false) (q : List Entry) :
    liveCount (wakeEntries p q) ≤ liveCount q := by
  apply countP_map_le
  intro e he
  by_contra hn
  simp at hn
  simp [hn, h] at he

theorem liveCount_wakeLine (x : Addr) (q : List Entry) : liveCount (wakeLine x q) ≤ liveCount q := by
  induction q with
  | nil => exact Nat.le_refl _
  | cons e es ih =>
    unfold wakeLine
    split
    · split
      · rename_i h; simp [liveCount, h]
      · exact Nat.le_refl _
    · simp only [liveCount, List.countP_cons] at ih ⊢; omega

theorem liveCount_filter_lt {q : List Entry} {e : Entry} (he : e ∈ q) (hw : e.wait = .ready) :
    liveCount (q.filter fun x => decide (x.req.tag ≠ e.req.tag)) < liveCount q := by
  induction q with
  | nil => cases he
  | cons x xs ih =>
    have hle : liveCount (xs.filter fun x => decide (x.req.tag ≠ e.req.tag)) ≤ liveCount xs := by
      simp only [liveCount]; rw [List.countP_filter]; exact List.countP_mono_left fun _ _ h => by simp_all
    simp only [liveCount, List.filter_cons, List.countP_cons] at ih hle ⊢
    rcases List.mem_cons.mp he with rfl | he
    · simp [hw]; simp at hle; omega
    · have := ih he
      split
      · simp only [List.countP_cons]; omega
      · omega

/-! ## One decision -/

/-- What a decision of a queued entry leaves of the deciding: an entry fewer, or as many and one fewer to decide. -/
def Progress (s t : State) : Prop :=
  t.hold.waiting = s.hold.waiting ∧
    (liveCount t.hold.queue < liveCount s.hold.queue ∨
      (liveCount t.hold.queue ≤ liveCount s.hold.queue ∧ readyCount t.hold.queue < readyCount s.hold.queue))

/-- Nothing but reasons that are not ISSUE has been cleared. -/
def Offered (s t : State) : Prop :=
  t.hold.waiting = s.hold.waiting ∧ (t.hold.queue = s.hold.queue ∨ ∃ p : Wait → Bool, p .issue = false ∧ t.hold.queue = wakeEntries p s.hold.queue)

theorem firstReady_spec {s : State} {e : Entry} (h : s.firstReady = some e) : e ∈ s.hold.queue ∧ e.wait = .ready := by
  unfold State.firstReady at h
  exact ⟨List.mem_of_find?_eq_some h, by simpa using List.find?_some h⟩

theorem offered_of_hold {s t : State} (h : t.hold = s.hold) : Offered s t := ⟨by rw [h], .inl (by rw [h])⟩

theorem offered_live {s t : State} (h : Offered s t) : liveCount t.hold.queue ≤ liveCount s.hold.queue := by
  rcases h.2 with h | ⟨p, hp, h⟩
  · rw [h]
  · rw [h]; exact liveCount_wakeEntries hp _

theorem offered_mem {s t : State} (h : Offered s t) {e : Entry} (he : e ∈ s.hold.queue) (hr : e.wait = .ready) :
    ∃ x ∈ t.hold.queue, x.req.tag = e.req.tag ∧ x.wait = .ready := by
  rcases h.2 with h | ⟨p, hp, h⟩
  · exact ⟨e, h ▸ he, rfl, hr⟩
  · refine ⟨if p e.wait then { e with wait := .ready } else e, ?_, ?_, ?_⟩
    · rw [h]; exact List.mem_map.mpr ⟨e, he, rfl⟩
    · split <;> rfl
    · split
      · rfl
      · exact hr

theorem raiseHead_offered (s : State) (h : Nat) : Offered s (s.raiseHead h) := by
  unfold State.raiseHead; dsimp only
  split
  · exact ⟨rfl, .inr ⟨Wait.clearedByEngine, rfl, rfl⟩⟩
  · exact offered_of_hold rfl

theorem release_offered (s : State) (v : Nat) (e : Epoch) : Offered s (s.release v e) := by
  unfold State.release; dsimp only
  split
  · exact offered_of_hold rfl
  split
  · exact offered_of_hold rfl
  split
  · exact raiseHead_offered s v
  split
  · have := raiseHead_offered s s.releaseLimit
    exact ⟨this.1, this.2⟩
  · exact offered_of_hold rfl

theorem watchAction_offered (s : State) (r : Request) : Offered s (s.watchAction r) := by
  unfold State.watchAction; split
  · exact release_offered ..
  · exact offered_of_hold (by simp)
  · split
    · exact offered_of_hold rfl
    · exact offered_of_hold rfl

theorem enterBroken_offered (s : State) (c : Cause) : Offered s (s.enterBroken c) := by
  unfold State.enterBroken
  refine ⟨?_, .inr ⟨Wait.clearedByBroken, rfl, ?_⟩⟩ <;> simp [State.wake]

theorem startOperation_hold (s : State) (r : Request) : (s.startOperation r).hold = s.hold := by
  unfold State.startOperation State.touchInsert; dsimp only; split <;> simp

theorem progress_setWait {s : State} {e : Entry} (he : e ∈ s.hold.queue) (hr : e.wait = .ready) {w : Wait} (hw : w ≠ .ready) :
    Progress s (s.setWait e.req.tag w) := by
  refine ⟨rfl, .inr ⟨?_, ?_⟩⟩
  · apply countP_map_le; intro x hx; by_contra hn; simp at hn; simp [hn] at hx
  · refine countP_map_lt (x := e) ?_ he (by simp [hr]) (by simp [hr, hw])
    intro x hx; by_contra hn; simp at hn; simp [hn] at hx

theorem progress_setHeld {s : State} {e : Entry} (he : e ∈ s.hold.queue) (hr : e.wait = .ready) {w : Wait} (hw : w ≠ .ready)
    (b : Bool) : Progress s (s.setHeld e.req.tag w b) := by
  refine ⟨rfl, .inr ⟨?_, ?_⟩⟩
  · apply countP_map_le; intro x hx; by_contra hn; simp at hn; simp [hn] at hx
  · refine countP_map_lt (x := e) ?_ he (by simp [hr]) (by simp [hr, hw])
    intro x hx; by_contra hn; simp at hn; simp [hn] at hx

theorem live_setIssue {s : State} {x : Entry} {tag : UpTag} (hx : x ∈ s.hold.queue) (ht : x.req.tag = tag) (hr : x.wait = .ready) :
    liveCount (s.setWait tag .issue).hold.queue < liveCount s.hold.queue := by
  refine countP_map_lt (x := x) ?_ hx (by simp [hr]) (by simp [hr, ht])
  intro y hy; by_contra hn; simp at hn; simp [hn] at hy

/-- A queued entry that is forwarded, whatever was cleared before, is out of the deciding. -/
theorem progress_forward {s t : State} {e : Entry} (ho : Offered s t) (he : e ∈ s.hold.queue) (hr : e.wait = .ready) :
    Progress s (t.forwardRequest true e.req) := by
  obtain ⟨x, hx, ht, hw⟩ := offered_mem ho he hr
  have hx' : x ∈ (t.handForward e.req).hold.queue := hx
  cases h : t.down.takesAtOnce with
  | true =>
    rw [forwardRequest_issued h]
    refine ⟨ho.1, .inl (Nat.lt_of_lt_of_le ?_ (offered_live ho))⟩
    rw [leave_hold, ← ht]
    exact Nat.lt_of_le_of_lt (liveCount_wakeLine _ _) (liveCount_filter_lt hx' hw)
  | false =>
    rw [forwardRequest_waiting h]
    exact ⟨ho.1, .inl (Nat.lt_of_lt_of_le (live_setIssue hx' ht hw) (offered_live ho))⟩

theorem progress_leave {s t : State} {e : Entry} (ht : t.hold = s.hold) (he : e ∈ s.hold.queue) (hr : e.wait = .ready) :
    Progress s (t.leave e.req) := by
  refine ⟨by simp [State.leave, ht], .inl ?_⟩
  simp only [State.leave, ht]
  exact Nat.lt_of_le_of_lt (liveCount_wakeLine _ _) (liveCount_filter_lt he hr)

theorem progress_of_hold {s t u : State} (h : t.hold = s.hold) (p : Progress t u) : Progress s u := by
  unfold Progress at *; rw [h] at p; exact p

theorem progress_of_same {s t u : State} (h : u.hold = t.hold) (p : Progress s t) : Progress s u := by
  unfold Progress at *; rw [h]; exact p

theorem verdict_not_ready (s : State) (r : Request) (b : Bool) : s.verdict r b ≠ .hold .ready := by
  unfold State.verdict
  split
  · unfold State.writeVerdict State.watchVerdict State.journaledVerdict State.journalVerdict State.fullVerdict
    repeat' split
    all_goals simp
  · unfold State.readVerdict; repeat' split
    all_goals simp
  · unfold State.viewVerdict State.viewSourceVerdict; repeat' split
    all_goals simp

theorem decideEntry_progress {s : State} {e : Entry} (h : s.firstReady = some e) : Progress s (s.decideEntry e.req) := by
  obtain ⟨he, hr⟩ := firstReady_spec h
  unfold State.decideEntry
  have hv := verdict_not_ready s e.req (behindSlot e.req.tag s.hold.queue)
  generalize s.verdict e.req (behindSlot e.req.tag s.hold.queue) = v at hv
  cases v with
  | forward => exact progress_forward (offered_of_hold rfl) he hr
  | answer st => exact progress_leave (by simp) he hr
  | hold w => exact progress_setHeld he hr (fun hw => hv (by rw [hw])) _
  | journal =>
    simp only [State.enact, State.holdRequest, if_true]
    refine progress_of_hold (startOperation_hold s e.req) (progress_setHeld ?_ hr (by simp) _)
    rw [startOperation_hold]; exact he
  | stallRing =>
    simp only [State.enact, State.holdRequest, if_true]
    exact progress_of_same rfl (progress_setHeld he hr (by simp) _)
  | refuseFull =>
    simp only [State.enact, State.answerRequest, if_true]
    refine progress_leave ?_ he hr
    simp only [answer_frame, State.reportFull]; split <;> rfl
  | breakFull => exact progress_forward (enterBroken_offered s _) he hr
  | watch => exact progress_forward (watchAction_offered s _) he hr
  | view src =>
    simp only [State.enact, State.takeView, if_true]
    refine progress_leave ?_ he hr
    cases src <;> rfl

theorem enter_live {s : State} (r : Request) (w : Wait) (h : s.hold.queue.length < Config.holdPlaces) :
    (s.enter r w).hold.waiting = s.hold.waiting ∧ liveCount (s.enter r w).hold.queue ≤ liveCount s.hold.queue + 1 := by
  simp only [State.enter, h, if_true, true_and, liveCount, List.countP_append]
  have : List.countP (fun e => decide (e.wait ≠ .issue)) [({ req := r, wait := w } : Entry)] ≤ 1 := List.countP_le_length
  omega

theorem forwardArrival_hold (s : State) (r : Request) : (s.forwardRequest false r).hold = s.hold := by
  rw [forwardRequest_arrival]; split <;> rfl

/-- Handed to a queue with room, a request adds an entry at most and does not wait outside the queue. -/
theorem submit_live {s : State} (r : Request) (h : s.hold.queue.length < Config.holdPlaces) :
    (s.submit r).hold.waiting = s.hold.waiting ∧ liveCount (s.submit r).hold.queue ≤ liveCount s.hold.queue + 1 := by
  unfold State.submit
  split
  · exact enter_live r _ h
  · unfold State.decideArrival; dsimp only
    rw [if_neg (by rintro ⟨_, h'⟩; omega)]
    generalize s.verdict r (s.hold.queue.any fun e => decide (e.wait = .slot)) = v
    cases v with
    | forward => simp only [State.enact, forwardArrival_hold]; exact ⟨trivial, by omega⟩
    | answer st => simp only [State.enact, State.answerRequest, if_false, Bool.false_eq_true, answer_frame]; exact ⟨trivial, by omega⟩
    | hold w => simp only [State.enact, State.holdRequest, if_false, Bool.false_eq_true]; exact enter_live _ _ h
    | journal =>
      simp only [State.enact, State.holdRequest, if_false, Bool.false_eq_true]
      have := enter_live (s := s.startOperation r) { r with watched := (s.startOperation r).isWatched r } (.record s.ring.tail)
        (by rw [startOperation_hold]; exact h)
      rwa [startOperation_hold] at this
    | stallRing =>
      simp only [State.enact, State.holdRequest, if_false, Bool.false_eq_true]
      exact enter_live (s := s) { r with watched := s.isWatched r } .space h
    | refuseFull =>
      simp only [State.enact, State.answerRequest, if_false, Bool.false_eq_true, answer_frame, State.reportFull]
      split <;> exact ⟨rfl, Nat.le_succ _⟩
    | breakFull =>
      simp only [State.enact, forwardArrival_hold]
      have := enterBroken_offered s .ringFullBreak
      exact ⟨this.1, Nat.le_succ_of_le (offered_live this)⟩
    | watch =>
      simp only [State.enact, forwardArrival_hold]
      have := watchAction_offered s r
      exact ⟨this.1, Nat.le_succ_of_le (offered_live this)⟩
    | view src =>
      simp only [State.enact, State.takeView, if_false, Bool.false_eq_true]
      cases src <;> exact ⟨rfl, Nat.le_succ _⟩

/-! ## All decisions of an event -/

/-- The waiting request, as 0 or 1. -/
def State.waitingCount (s : State) : Nat := if s.hold.waiting = none then 0 else 1

/-- A bound on the decisions an event still has to make, `k` above the number of entries and the waiting request. -/
def State.decisions (s : State) (k : Nat) : Nat := k * liveCount s.hold.queue + readyCount s.hold.queue + 2 * k * s.waitingCount

/-- Nothing is left to decide. -/
def State.Quiet (s : State) : Prop := s.firstReady = none ∧ (s.hold.waiting = none ∨ Config.holdPlaces ≤ s.hold.queue.length)

theorem decideEntry_decisions {s : State} {e : Entry} {k : Nat} (h : s.firstReady = some e)
    (hk : liveCount s.hold.queue + s.waitingCount < k) :
    (s.decideEntry e.req).decisions k < s.decisions k ∧
      liveCount (s.decideEntry e.req).hold.queue + (s.decideEntry e.req).waitingCount < k := by
  obtain ⟨hw, hp⟩ := decideEntry_progress h
  have hwc : (s.decideEntry e.req).waitingCount = s.waitingCount := by simp [State.waitingCount, hw]
  have hr := readyCount_le_liveCount (s.decideEntry e.req).hold.queue
  unfold State.decisions
  rw [hwc]
  rcases hp with hp | ⟨h1, h2⟩
  · refine ⟨?_, by omega⟩
    have : k * (liveCount (s.decideEntry e.req).hold.queue + 1) ≤ k * liveCount s.hold.queue := Nat.mul_le_mul_left _ hp
    rw [Nat.mul_add, Nat.mul_one] at this
    omega
  · refine ⟨?_, by omega⟩
    have : k * liveCount (s.decideEntry e.req).hold.queue ≤ k * liveCount s.hold.queue := Nat.mul_le_mul_left _ h1
    omega

theorem submit_decisions {s : State} {r : Request} {k : Nat} (h : s.hold.waiting = some r)
    (hl : s.hold.queue.length < Config.holdPlaces) (hk : liveCount s.hold.queue + s.waitingCount < k) :
    (State.submit { s with hold := { s.hold with waiting := none } } r).decisions k < s.decisions k ∧
      liveCount (State.submit { s with hold := { s.hold with waiting := none } } r).hold.queue
        + (State.submit { s with hold := { s.hold with waiting := none } } r).waitingCount < k := by
  obtain ⟨hw, hp⟩ := submit_live (s := { s with hold := { s.hold with waiting := none } }) r hl
  generalize State.submit { s with hold := { s.hold with waiting := none } } r = t at hw hp ⊢
  have hwt : t.waitingCount = 0 := by simp [State.waitingCount, hw]
  have hws : s.waitingCount = 1 := by simp [State.waitingCount, h]
  have hr := readyCount_le_liveCount t.hold.queue
  unfold State.decisions
  rw [hwt, hws]
  rw [hws] at hk
  dsimp only at hp
  refine ⟨?_, by omega⟩
  have : k * liveCount t.hold.queue ≤ k * (liveCount s.hold.queue + 1) := Nat.mul_le_mul_left _ hp
  rw [Nat.mul_add, Nat.mul_one] at this
  omega

theorem quiet_of_no_decisions {s : State} {k : Nat} (hk : liveCount s.hold.queue + s.waitingCount < k) (h : s.decisions k = 0) :
    s.Quiet := by
  unfold State.decisions at h
  have hr : readyCount s.hold.queue = 0 := by omega
  refine ⟨?_, .inl ?_⟩
  · unfold State.firstReady
    rw [List.find?_eq_none]
    intro e he hc
    have : 0 < readyCount s.hold.queue := List.countP_pos_iff.mpr ⟨e, he, hc⟩
    omega
  · by_contra hn
    have : s.waitingCount = 1 := by simp [State.waitingCount, hn]
    rw [this] at h
    omega

/-- With decisions enough, all are made. -/
theorem settleQueue_quiet {k : Nat} (n : Nat) (s : State) (hk : liveCount s.hold.queue + s.waitingCount < k)
    (h : s.decisions k ≤ n) : (State.settleQueue n s).Quiet := by
  induction n generalizing s with
  | zero => exact quiet_of_no_decisions hk (Nat.le_zero.mp h)
  | succ n ih =>
    unfold State.settleQueue
    split
    · rename_i e he
      obtain ⟨h1, h2⟩ := decideEntry_decisions he hk
      exact ih _ h2 (by omega)
    · rename_i hn
      split
      · rename_i hw; exact ⟨hn, .inl hw⟩
      · rename_i r hw
        split
        · rename_i hl
          obtain ⟨h1, h2⟩ := submit_decisions hw hl hk
          exact ih _ h2 (by omega)
        · rename_i hl; exact ⟨hn, .inr (Nat.not_lt.mp hl)⟩

/-- More than enough is the same. -/
theorem settleQueue_enough {k : Nat} (n m : Nat) (s : State) (hk : liveCount s.hold.queue + s.waitingCount < k)
    (hn : s.decisions k ≤ n) (hm : s.decisions k ≤ m) : State.settleQueue n s = State.settleQueue m s := by
  induction n generalizing s m with
  | zero =>
    have hq := quiet_of_no_decisions hk (Nat.le_zero.mp hn)
    rw [settleQueue_of_quiet hq.1 hq.2, settleQueue_of_quiet hq.1 hq.2]
  | succ n ih =>
    cases m with
    | zero =>
      have hq := quiet_of_no_decisions hk (Nat.le_zero.mp hm)
      rw [settleQueue_of_quiet hq.1 hq.2, settleQueue_of_quiet hq.1 hq.2]
    | succ m =>
      unfold State.settleQueue
      split
      · rename_i e he
        obtain ⟨h1, h2⟩ := decideEntry_decisions he hk
        exact ih m _ h2 (by omega) (by omega)
      · split
        · rfl
        · rename_i r hw
          split
          · rename_i hl
            obtain ⟨h1, h2⟩ := submit_decisions hw hl hk
            exact ih m _ h2 (by omega) (by omega)
          · rfl

/-- The fuel of an event suffices. -/
theorem decisions_le_settleFuel (s : State) : s.decisions (liveCount s.hold.queue + 2) ≤ s.settleFuel := by
  have h1 := readyCount_le_liveCount s.hold.queue
  have h2 := liveCount_le_length s.hold.queue
  have h3 : s.waitingCount ≤ 1 := by unfold State.waitingCount; split <;> omega
  unfold State.decisions State.settleFuel
  generalize liveCount s.hold.queue = l at *
  generalize s.hold.queue.length = n at *
  have h4 : 2 * (l + 2) * s.waitingCount ≤ 2 * (l + 2) * 1 := Nat.mul_le_mul_left _ h3
  nlinarith

theorem waitingCount_lt (s : State) : liveCount s.hold.queue + s.waitingCount < liveCount s.hold.queue + 2 := by
  unfold State.waitingCount; split <;> omega

/-- After an event's decisions nothing is left to decide. -/
theorem settle_quiet (s : State) : s.settle.Quiet := settleQueue_quiet _ s (waitingCount_lt s) (decisions_le_settleFuel s)

/-- The oldest decidable entry is decided first, and the deciding goes on from what it leaves (R66). -/
theorem settle_of_ready {s : State} {e : Entry} (h : s.firstReady = some e) : s.settle = (s.decideEntry e.req).settle := by
  obtain ⟨h1, h2⟩ := decideEntry_decisions h (waitingCount_lt s)
  have h3 := decisions_le_settleFuel s
  have h4 : State.settleQueue (s.settleFuel + 1) s = State.settleQueue s.settleFuel (s.decideEntry e.req) := by
    conv_lhs => unfold State.settleQueue
    simp only [h]
  have h5 := settleQueue_enough s.settleFuel (s.settleFuel + 1) s (waitingCount_lt s) h3 (by omega)
  unfold State.settle
  rw [h5, h4]
  have hm := decisions_le_settleFuel (s.decideEntry e.req)
  rcases Nat.le_total s.settleFuel (s.decideEntry e.req).settleFuel with hle | hle
  · exact settleQueue_enough _ _ _ h2 (by omega) (by omega)
  · exact settleQueue_enough _ _ _ (waitingCount_lt _) (by omega) hm

/-- The end of an event decides the oldest decidable entry and goes on as the end of an event. -/
theorem finish_of_ready {s : State} {e : Entry} (h : s.firstReady = some e) (hq : s.quiesceDue = false)
    (hd : (s.decideEntry e.req).quiesceDue = false) : s.finish = (s.decideEntry e.req).finish := by
  rw [State.finish, State.finish, checkQuiesce_of_not_due hq, checkQuiesce_of_not_due hd, settle_of_ready h]

/-- With none decidable, the waiting request is offered anew when the queue has room (R64). -/
theorem settle_of_waiting {s : State} {r : Request} (h : s.firstReady = none) (hw : s.hold.waiting = some r)
    (hl : s.hold.queue.length < Config.holdPlaces) :
    s.settle = (State.submit { s with hold := { s.hold with waiting := none } } r).settle := by
  obtain ⟨h1, h2⟩ := submit_decisions hw hl (waitingCount_lt s)
  have h3 := decisions_le_settleFuel s
  have h4 : State.settleQueue (s.settleFuel + 1) s =
      State.settleQueue s.settleFuel (State.submit { s with hold := { s.hold with waiting := none } } r) := by
    conv_lhs => unfold State.settleQueue
    simp only [h, hw, hl, if_true]
  have h5 := settleQueue_enough s.settleFuel (s.settleFuel + 1) s (waitingCount_lt s) h3 (by omega)
  unfold State.settle
  rw [h5, h4]
  generalize State.submit { s with hold := { s.hold with waiting := none } } r = t at h1 h2 ⊢
  have hm := decisions_le_settleFuel t
  rcases Nat.le_total s.settleFuel t.settleFuel with hle | hle
  · exact settleQueue_enough _ _ _ h2 (by omega) (by omega)
  · exact settleQueue_enough _ _ _ (waitingCount_lt _) (by omega) hm

end Sys2Proof.Machine
end

