-- ==== Sys2Proof/Laws/Walk.lean ====
section
/-! SUPPORT. Settling in replay and scan comes to an end: each settled seq uses up a place whose reads have returned, and a place
taken anew has its reads outstanding, so the fuel of State.goOnReplay and State.goOnScan suffices. -/

namespace Sys2Proof.Machine

/-! ## Replay -/

/-- The reads of the place have returned, and no restoring write of it is outstanding. -/
def ReplayPlace.returned (x : ReplayPlace) : Bool :=
  !x.writing && !decide (x.header = .outstanding) && !decide (x.data = .outstanding)

/-- Places that could be settled. -/
def Replay.returned (p : Replay) : Nat := p.places.countP ReplayPlace.returned

theorem countP_filter_lt {α : Type} {p f : α → Bool} {l : List α} {x : α} (hx : x ∈ l) (hp : p x = true) (hf : f x = false) :
    (l.filter f).countP p < l.countP p := by
  induction l with
  | nil => cases hx
  | cons y ys ih =>
    have hle : (ys.filter f).countP p ≤ ys.countP p := List.Sublist.countP_le List.filter_sublist
    rcases List.mem_cons.mp hx with rfl | hx
    · rw [List.filter_cons_of_neg (by simp [hf]), List.countP_cons_of_pos hp]; omega
    · have := ih hx
      by_cases hy : f y = true
      · rw [List.filter_cons_of_pos hy, List.countP_cons, List.countP_cons]; omega
      · rw [List.filter_cons_of_neg hy, List.countP_cons]; omega

theorem replayOutcome_returned {x : ReplayPlace} {e : Epoch} (h : replayOutcome x e ≠ .pending) :
    x.header ≠ .outstanding ∧ x.data ≠ .outstanding := by
  unfold replayOutcome at h
  split at h <;> simp_all

/-- The replay unit reads one slot more or none, and a place taken so has its reads outstanding. -/
theorem readReplay_one (s : State) {p : Replay} (h : s.replay = some p) :
    ∃ k, (State.readReplay 1 s).replay = some k ∧ k.returned = p.returned := by
  unfold State.readReplay
  rw [h]
  dsimp only
  split
  · refine ⟨_, rfl, ?_⟩
    simp [Replay.returned, freshReplayPlace, ReplayPlace.returned]
  · exact ⟨p, h, rfl⟩

/-- One settle more changes nothing once there is fuel for every returned place. -/
theorem settleReplay_enough (n : Nat) (s : State) (h : ∀ p, s.replay = some p → p.returned ≤ n) :
    State.settleReplay (n + 1) s = State.settleReplay (n + 2) s := by
  induction n generalizing s with
  | zero =>
    rw [State.settleReplay, State.settleReplay]
    split
    · rfl
    · rename_i p hp
      split
      · rfl
      · rename_i x hx
        have hm := List.mem_of_find?_eq_some hx
        have hw := List.find?_some hx
        have hr : replayOutcome x s.eng.epoch = .pending := by
          by_contra hn
          have := replayOutcome_returned hn
          have hc : 0 < p.returned := List.countP_pos_iff.mpr ⟨x, hm, by simp_all [ReplayPlace.returned]⟩
          have := h p hp
          omega
        rw [hr]
  | succ n ih =>
    rw [State.settleReplay, State.settleReplay]
    split
    · rfl
    · rename_i p hp
      split
      · rfl
      · rename_i x hx
        have hm := List.mem_of_find?_eq_some hx
        have hw := List.find?_some hx
        have less : replayOutcome x s.eng.epoch ≠ .pending → ∀ (f : Nat) (k : Replay),
            (State.readReplay 1 { s with replay := some (p.settled x.seq f) }).replay = some k → k.returned ≤ n := by
          intro hn f k hk
          obtain ⟨k', hk', he⟩ := readReplay_one { s with replay := some (p.settled x.seq f) } (p := p.settled x.seq f) rfl
          rw [hk] at hk'
          cases hk'
          have hlt : (p.settled x.seq f).returned < p.returned :=
            countP_filter_lt hm (by have := replayOutcome_returned hn; simp_all [ReplayPlace.returned]) (by simp)
          have := h p hp
          omega
        split
        · rfl
        · rename_i hf; exact ih _ (less (by rw [hf]; decide) 1)
        · rename_i hf; exact ih _ (less (by rw [hf]; decide) 0)
        · rename_i l d ho
          dsimp only
          split
          · refine ih _ fun k hk => ?_
            simp only [Option.some.injEq] at hk
            subst hk
            have hx' : x.returned = true := by
              have := replayOutcome_returned (x := x) (e := s.eng.epoch) (by rw [ho]; simp)
              simp_all [ReplayPlace.returned]
            have hlt : (p.places.map fun y => if y.seq = x.seq then { y with writing := true } else y).countP
                ReplayPlace.returned < p.places.countP ReplayPlace.returned := by
              refine countP_map_lt ?_ hm hx' (by simp [ReplayPlace.returned])
              intro y hy; split at hy
              · simp [ReplayPlace.returned] at hy
              · exact hy
            have := h p hp
            simp only [Replay.returned] at this ⊢
            omega
          · rfl

/-! ## The scan -/

/-- Places whose reads have returned. -/
def Scan.returned (c : Scan) : Nat := c.places.countP fun x => !x.reading

theorem readScan_returned (n : Nat) (s : State) {c : Scan} (h : s.scan = some c) :
    ∃ k, (State.readScan n s).scan = some k ∧ k.returned = c.returned ∧ k.stopped = c.stopped := by
  induction n generalizing s c with
  | zero => exact ⟨c, h, rfl, rfl⟩
  | succ n ih =>
    unfold State.readScan
    rw [h]
    dsimp only
    split
    · set c' : Scan := { c with places := c.places ++ [freshScanPlace c.readCursor], readCursor := c.readCursor + 1 } with hc
      have step : ∀ t : State, t.scan = some c' →
          ∃ k, (State.readScan n t).scan = some k ∧ k.returned = c.returned ∧ k.stopped = c.stopped := by
        intro t ht
        obtain ⟨k, hk, he, hs⟩ := ih t ht
        exact ⟨k, hk, by rw [he]; simp [hc, Scan.returned, freshScanPlace, ScanPlace.reading], hs⟩
      exact step _ rfl
    · exact ⟨c, h, rfl, rfl⟩

/-- Settling a place stops the run or uses the place up. -/
theorem settle_returned {c : Scan} {x : ScanPlace} (hx : x ∈ c.places) (hr : x.reading = false) (capacity : Nat) :
    (c.settle x capacity).stopped = true ∨ (c.settle x capacity).returned < c.returned := by
  have judged : ∀ k : Scan, k.places = c.places → (k.judge x capacity).stopped = true ∨ (k.judge x capacity).returned < c.returned := by
    intro k hk
    unfold Scan.judge
    split
    · split
      · right
        have hp : ∀ h, (k.take h x.seq).places = k.places := by
          intro h; unfold Scan.take; split
          · split <;> rfl
          · simp only [Scan.list]; split
            · rfl
            · split <;> rfl
        simp only [Scan.returned, Scan.advance, hp, hk]
        exact countP_filter_lt hx (by simp [hr]) (by simp)
      · exact .inl rfl
    · exact .inl rfl
    · exact .inl rfl
    · exact .inl rfl
    · exact .inl rfl
  unfold Scan.settle
  split
  · exact judged c rfl
  · split
    · rename_i q hq
      right
      have hlt : x.seq < q := by
        unfold seekAdvance at hq
        split at hq
        · split at hq
          · cases hq; omega
          · cases hq
        all_goals cases hq
      exact countP_filter_lt hx (by simp [hr]) (by simp [hr]; omega)
    · exact judged _ rfl

/-- One settle more changes nothing once there is fuel for every returned place and the stop. -/
theorem settleScan_enough (n : Nat) (s : State) (h : ∀ c, s.scan = some c → c.stopped = false → c.returned ≤ n) :
    State.settleScan (n + 1) s = State.settleScan (n + 2) s := by
  induction n generalizing s with
  | zero =>
    rw [State.settleScan, State.settleScan]
    split
    · rfl
    · rename_i c hc
      split
      · rfl
      · rename_i hs
        split
        · rfl
        · rename_i x hx
          have hm := List.mem_of_find?_eq_some hx
          have hw := List.find?_some hx
          have : 0 < c.returned := List.countP_pos_iff.mpr ⟨x, hm, by simp_all⟩
          have := h c hc (by simpa using hs)
          omega
  | succ n ih =>
    rw [State.settleScan, State.settleScan]
    split
    · rfl
    · rename_i c hc
      split
      · rfl
      · rename_i hs
        split
        · rfl
        · rename_i x hx
          have hm := List.mem_of_find?_eq_some hx
          have hw := List.find?_some hx
          apply ih
          intro k hk hst
          obtain ⟨k', hk', he, ht⟩ := readScan_returned Config.scanPlaces
            { s with scan := some (c.settle x s.layout.capacity) } (c := c.settle x s.layout.capacity) rfl
          rw [hk] at hk'
          cases hk'
          have := h c hc (by simpa using hs)
          rcases settle_returned hm (by simp_all : x.reading = false) s.layout.capacity with h1 | h1
          · rw [ht, h1] at hst; cases hst
          · omega

end Sys2Proof.Machine
end

