-- ==== Sys2Proof/Tests/Slice0.lean ====
section
/-! SUPPORT. The model's own tests: ill-formed commands, the worked values of the spec, frames written out byte by byte, and for
each obligation with hypotheses a concrete state and operands that meet them, clause by clause. -/

namespace Sys2Proof.Tests

open Sys2Proof Sys2Proof.Machine

/-! ## States for the tests -/

/-- A response with a tag and a status. -/
def answer (t : DownTag) (st : LinkStatus) : MemResponse := { tag := t, status := st, data := 0 }

/-- A device in an engine state: epoch 5, a layout that is set, region 0 JOURNALED and region 1 FROZEN, seq 0 listed. -/
def inState (e : EngineState) : State :=
  { State.reset with
    eng := { State.reset.eng with state := e, epoch := 5 }
    layout := { ringBase := 0x10000, order := 8, controlLine := 0x2000, policy := .stall, stallLimit := 1000, stride := 64
                highWater := 6 }
    regions := (State.reset.regions.set 0 { enabled := true, base := 0x100000, order := 20, mode := .journaled }).set 1
      { enabled := true, base := 0x200000, order := 20, mode := .frozen }
    ring := { State.reset.ring with frontier := 1, tail := 1 }
    segments := [{ seq := 0, tag := 0, source := .start }] }

def ready : State := inState .active

/-- A CHANGE header of the epoch. -/
def header (q : Nat) : Header :=
  { kind := .change, dup := false, source := .none, region := 0, epoch := 5, seq := q, line := 0x100040, tag := 0
    segmentStart := 0 }

def slot (q : Nat) : Slot :=
  { header := header q, oldData := .reading, headerWrite := .notIssued, dataWrite := .notIssued, held := some 9
    abandoned := false }

/-- A slot whose record writes are both outstanding. -/
def writing (q : Nat) : Slot := { slot q with oldData := .image 0, headerWrite := .outstanding, dataWrite := .outstanding }

def request (t : UpTag) (op : LinkOp) (x : Addr) : UpRequest := { tag := t, op := op, addr := x, mask := 1 }

/-- A held write to a line. -/
def entry (t : UpTag) (x : Addr) (w : Wait) : Entry :=
  { req := { tag := t, kind := .write 0, line := x, mask := 1, watched := false }, wait := w }

def issued (t : DownTag) (o : Owner) : DownRequest := { tag := t, op := .read, addr := 0x100040, mask := 1, owner := o, event := 0 }

/-- One occupied slot, seq 1, in flight. -/
def oneSlot (e : EngineState) (j : Slot) : State :=
  { inState e with slots := [j], ring := { (inState e).ring with tail := 2 } }

/-- The state with one issued request of a given owner, with tag 64. -/
def awaiting (s : State) (o : Owner) : State := { s with down := { s.down with issued := [issued 64 o] } }

def holding (s : State) (l : List Entry) : State := { s with hold := { s.hold with queue := l } }

def replayAt (s : State) (p : Replay) : State := { s with replay := some p }

def replay (target cursor : Nat) (places : List ReplayPlace) : Replay :=
  { target := target, cursor := cursor, readCursor := target, places := places, replayed := 0, faults := 0, begun := true }

def fullQueue (w : Wait) : List Entry := (List.range 16).map fun i => entry (.ofNat 6 i) (.ofNat 40 (0x300000 + 64 * i)) w

/-- A state with an empty hold queue, out of QUIESCING and RESETTING, is settled. -/
theorem settled_of_empty {s : State} (h : s.hold.queue = []) (hw : s.hold.waiting = none) (hq : s.eng.state ≠ .quiescing)
    (hr : s.eng.state ≠ .resetting) : s.Settled where
  ready := by simp [State.firstReady, h]
  waiting := .inl hw
  quiesce := by simp [State.quiesceDue, hq]
  reset := by simp [State.resetDue, hr]

theorem settled_ready : ready.Settled := settled_of_empty rfl rfl (by decide) (by decide)

/-! ## Ill-formed commands (WellFormed) -/

theorem test_forwarded_tag_too_high : (Instr.forwardedResponse (answer 64 .ok)).wellFormed = false := by decide
theorem test_old_data_tag_too_low : (Instr.oldDataResponse (answer 63 .ok)).wellFormed = false := by decide
theorem test_record_ack_tag_too_low : (Instr.recordWriteAck (answer 0 .ok)).wellFormed = false := by decide
theorem test_status_tag_too_low : (Instr.statusWriteResponse (answer 1 .ok)).wellFormed = false := by decide
theorem test_start_tag_too_low : (Instr.startControlReadResponse (answer 1 .ok)).wellFormed = false := by decide
theorem test_recover_tag_too_low : (Instr.recoverControlReadResponse (answer 1 .ok)).wellFormed = false := by decide
theorem test_view_tag_too_low : (Instr.viewReaderResponse (answer 1 .ok)).wellFormed = false := by decide
theorem test_replay_tag_too_low : (Instr.replayReadResponse (answer 1 .ok)).wellFormed = false := by decide
theorem test_restore_tag_too_low : (Instr.restoringWriteAck (answer 1 .ok)).wellFormed = false := by decide
theorem test_scan_tag_too_low : (Instr.scanReadResponse (answer 1 .ok)).wellFormed = false := by decide
theorem test_known_code_is_not_unknown : (Instr.unknown 0x22).wellFormed = false := by decide
theorem test_well_formed : (Instr.oldDataResponse (answer 64 .ok)).wellFormed = true ∧ (Instr.unknown 0x00).wellFormed = true := by
  decide

/-! ## Values the spec gives -/

/-- R5: the check over the nine digits. -/
theorem test_crc : crc32 [0x31, 0x32, 0x33, 0x34, 0x35, 0x36, 0x37, 0x38, 0x39] = 0xCBF43926#32 := by decide +kernel

/-- The frames of 11.2, byte by byte. -/
theorem test_frame_mark : frameCommand [0x22, 0x78, 0x56, 0x34, 0x12] = some (.mark 0x12345678) := by decide
theorem test_frame_mark_short : frameCommand [0x22, 0x78, 0x56, 0x34] = none := by decide
theorem test_frame_rollback : frameCommand [0x23, 0x02, 0x05, 0, 0, 0, 0, 0, 0, 0, 0xAA] = some (.rollback 2 5) := by decide
theorem test_frame_set_timer : frameCommand [0x13, 3, 0xE8, 0x03, 1] = some (.setTimer 3 1000 1) := by decide
theorem test_frame_set_addressing : frameCommand [0x11, 0x03, 0x00, 0x24] = some (.setAddressing 3 36) := by decide
theorem test_frame_set_layout :
    frameCommand ([0x10, 0, 0, 1, 0, 0, 8] ++ [0, 0x20, 0, 0, 0, 2, 0x2C, 0x01, 16, 0, 6]) =
      some (.setLayout { ringBase := 0x10000, order := 8, controlLine := 0x2000, policy := 2, stallLimit := 300, stride := 16
                         highWater := 6 }) := by decide
theorem test_frame_write_region :
    frameCommand [0x12, 1, 1, 2, 20, 0, 0, 0x20, 0, 0] =
      some (.writeRegion { index := 1, enabled := 1, mode := 2, order := 20, base := 0x200000 }) := by decide
theorem test_frame_unknown : frameCommand [0x31] = some (.unknown 0x31) := by decide
theorem test_frame_of_no_bytes : frameCommand [] = none := by decide

/-! ## Witnesses -/

theorem witness_EveryCommandCompletes :
    responseOf (.strayResponse (answer 64 .ok)) = some (answer 64 .ok) ∧ ready.down.inUse 64 = false ∧
    (let s := { ready with down := { ready.down with toIssue := [issued 64 .status] } }
     s.rstn = true ∧ s.down.issuedWith 64 = none ∧ s.down.inUse 64 = true) := by decide +kernel

theorem witness_TimersTick :
    (ready.pending = [] ∧ ready.rstn = true ∧ ready.stall = none ∧ ready.timer.enabled = false) ∧
    (let s := { ready with timer := { ready.timer with enabled := true, tick := .us10, compare := 2 } }
     s.pending = [] ∧ s.rstn = true ∧ s.stall = none ∧ s.timer.enabled = true ∧ s.eng.state = .active ∧
     s.timer.phase + 1 < s.timer.tick.micros) ∧
    (let s := { ready with timer := { ready.timer with enabled := true, tick := .us10, compare := 2, phase := 9 } }
     s.timer.tick.micros ≤ s.timer.phase + 1 ∧ s.timer.counter + 1 < s.timer.compare) ∧
    (let s := { ready with timer := { ready.timer with enabled := true, tick := .us10, compare := 2, phase := 9, counter := 1 } }
     s.timer.tick.micros ≤ s.timer.phase + 1 ∧ s.timer.compare ≤ s.timer.counter + 1) ∧
    (let s := { inState .stalled with stall := some 998 }
     s.timer.enabled = false ∧ s.eng.state = .stalled ∧ s.stall = some 998 ∧ 998 + 1 < s.layout.stallLimit) ∧
    (inState .stalled).layout.stallLimit ≤ 999 + 1 := by decide

theorem witness_RstnLow : ({ ready with rstn := false } : State).rstn = false ∧ Instr.start ≠ .powerOnReset := by decide

theorem witness_ReadIdAndRegion :
    (ready.rstn = true ∧ ready.eng.state ≠ .resetting ∧ (15 : Byte).toNat < 16 ∧ 15 < (16 : Byte).toNat) ∧
    (inState .resetting).eng.state = .resetting := by decide

theorem bounded_ready : ready.Bounded :=
  ⟨by decide, by decide, by decide, by decide, by decide, by decide, (by intro p h; cases h), (by intro c h; cases h)⟩

theorem witness_StatusSnapshot :
    ready.rstn = true ∧ ready.Bounded ∧ ready.ring.head < 2 ^ 64 ∧ ready.ring.frontier < 2 ^ 64 ∧ ready.ring.tail < 2 ^ 64 ∧
    (∀ m, ready.eng.action = some (.rollback m) → m < 2 ^ 64) ∧ (∀ m, ready.eng.pendingTarget = some m → m < 2 ^ 64) ∧
    (∀ b, ready.addressing.viewBit = some b → b < 256) :=
  ⟨by decide, bounded_ready, by decide, by decide, by decide, (by intro m h; cases h), (by intro m h; cases h),
    (by intro b h; cases h)⟩

theorem witness_ReadSegments :
    ready.rstn = true ∧ ready.eng.state ≠ .resetting ∧ ready.Bounded ∧ (∀ e ∈ ready.segments, e.seq < 2 ^ 64 ∧ e.source.code < 256) :=
  ⟨by decide, by decide, bounded_ready, by decide⟩

/-- An event record, and a device that holds it. -/
def record : EventRecord := { kind := .resetDone, state := .off, seq := none, detail := some 3, count := none }

def withEvents (l : List EventRecord) : State := { ready with port := { ready.port with events := l } }

theorem witness_ReadEventCopiesOldest :
    (ready.rstn = true ∧ ready.eng.state ≠ .resetting ∧ ready.port.events = []) ∧
    ((withEvents [record, record]).port.events = record :: [record] ∧ [record].length < 32 ∧
     (∀ v ∈ record.seq, v < 2 ^ 64) ∧ (∀ v ∈ record.detail, v < 2 ^ 32) ∧ (∀ v ∈ record.count, v < 2 ^ 32)) := by decide

theorem witness_FrameEndRemovesTheRecordRead :
    (let f : Frame := { result := .accepted, data := [], removesEvent := true }
     let s := { withEvents [record] with port := { (withEvents [record]).port with frame := some f } }
     s.rstn = true ∧ s.port.frame = some f ∧ f.removesEvent = true ∧ 20 ≤ 20) ∧
    ready.port.frame = none ∧ 19 < 20 := by decide

theorem witness_EventsAreQueued :
    (ready.port.mask.getLsbD (EventKind.closed.code - 1) = true ∧ ready.port.events.length < 32) ∧
    32 ≤ (withEvents (List.replicate 32 record)).port.events.length ∧
    ({ ready.port with mask := 0 } : Port).mask.getLsbD (EventKind.closed.code - 1) = false := by decide

theorem witness_BusyOrUnknown :
    ((inState .resetting).rstn = true ∧ (inState .resetting).eng.state = .resetting) ∧ ready.port.frame = none ∧
    (ready.answered .badArg [7]).port.frame.isSome = true ∧ (ready.answered .badArg [7]).sdo false 6 = some true := by decide

theorem witness_FrameDecodesItsCommand :
    (Instr.mark 7).wellFormed = true ∧ frameBytes (.mark 7) = some [0x22, 7, 0, 0, 0] := by decide

/-- Layout arguments at both ends of their ranges. -/
def lowest : LayoutArgs :=
  { ringBase := 0, order := 8, controlLine := 0x8000, policy := 0, stallLimit := 1, stride := 1, highWater := 1 }

def highest : LayoutArgs :=
  { ringBase := 0xFFF8000000, order := 20, controlLine := 0xFFFFFFFFC0, policy := 2, stallLimit := 65535, stride := 65535
    highWater := 8 }

theorem witness_SetLayout :
    ((inState .off).rstn = true ∧ (inState .off).eng.state = .off) ∧ ready.eng.state ≠ .off ∧ (inState .resetting).eng.state = .resetting ∧
    (∀ a ∈ [lowest, highest], a.ringBase.toNat % 4096 = 0 ∧ a.ringBase.toNat + 128 * 2 ^ a.order.toNat ≤ 2 ^ 40 ∧
      8 ≤ a.order.toNat ∧ a.order.toNat ≤ 20 ∧ a.controlLine.toNat % 64 = 0 ∧ a.policy.toNat ≤ 2 ∧ 1 ≤ a.stallLimit.toNat ∧
      1 ≤ a.stride.toNat ∧ 1 ≤ a.highWater.toNat ∧ a.highWater.toNat ≤ 8) ∧
    (∀ a ∈ [{ lowest with order := 7 }, { highest with order := 21 }, { highest with highWater := 9 }, { lowest with highWater := 0 },
        { lowest with stallLimit := 0 }, { lowest with stride := 0 }, { lowest with policy := 3 }, { lowest with ringBase := 2048 },
        { lowest with controlLine := 32 }, { highest with ringBase := 0xFFF8001000 }],
      layoutOf a = none) := by decide

theorem witness_SetAddressing :
    ((inState .off).rstn = true ∧ (inState .off).eng.state = .off ∧ ready.eng.state ≠ .off ∧ ready.eng.state ≠ .resetting) ∧
    ((0x0400 : BitVec 16).getLsbD 10 = true) ∧ ((29 : Byte).toNat < 30 ∧ 39 < (40 : Byte).toNat) ∧
    ((0x0001 : BitVec 16).getLsbD ((30 : Byte).toNat - 30) = true) ∧
    (addressingOf 0x0200 30 = some { fold := 0x200, viewBit := some 30 }) ∧ addressingOf 0 0xFF = some { fold := 0, viewBit := none } := by
  decide

/-- The region of the lowest valid arguments. -/
def regionArgs : RegionArgs := { index := 15, enabled := 1, mode := 2, order := 12, base := 0x1000 }

theorem witness_WriteRegion :
    (let a := regionArgs
     let s := inState .off
     s.rstn = true ∧ s.eng.state = .off ∧ a.index.toNat < 16 ∧ a.enabled.toNat ≤ 1 ∧ a.mode.toNat ≤ 2 ∧ 12 ≤ a.order.toNat ∧
     a.order.toNat ≤ 39 ∧ a.base.toNat % 2 ^ a.order.toNat = 0 ∧ s.addressing.fold = 0 ∧ s.addressing.viewBit = none) ∧
    (∀ a ∈ [{ regionArgs with enabled := 2 }, { regionArgs with mode := 3 }, { regionArgs with order := 11 },
        { regionArgs with order := 40 }, { regionArgs with base := 0x800 }], regionOf a { fold := 0, viewBit := none } = none) ∧
    ¬ ({ regionArgs with index := 16 } : RegionArgs).index.toNat < 16 ∧ (ready.eng.state ≠ .off ∧ ready.eng.state ≠ .resetting) := by
  decide

theorem witness_SetTimerAndMask :
    ready.rstn = true ∧ ready.eng.state ≠ .resetting ∧ (3 < (4 : Byte).toNat) ∧ (1 < (2 : Byte).toNat) ∧
    ((3 : Byte), TickPeriod.ms1) ∈ [((0 : Byte), TickPeriod.us1), (1, .us10), (2, .us100), (3, .ms1)] ∧
    (65535 : BitVec 16) ≠ 0 ∧ (1 : Byte).toNat ≤ 1 := by decide

theorem witness_ConfigurationFrame :
    (∃ t, exec .start ready = .next t) ∧ Instr.start ≠ .powerOnReset ∧ ready.eng.state ≠ .off := ⟨⟨_, rfl⟩, by decide, by decide⟩

theorem witness_Start_and_Recover :
    (let s := inState .off
     s.rstn = true ∧ s.eng.state = .off ∧ s.placementOk = true) ∧
    (State.reset.eng.state = .off ∧ State.reset.placementOk = false) ∧ (ready.eng.state ≠ .off ∧ ready.eng.state ≠ .resetting) ∧
    (inState .resetting).eng.state = .resetting := by decide +kernel

theorem settled_oneSlot : ∀ e ∈ [EngineState.active, .stalled, .broken], (oneSlot e (slot 1)).Settled := by
  intro e he
  simp only [List.mem_cons, List.not_mem_nil, or_false] at he
  rcases he with rfl | rfl | rfl <;> exact settled_of_empty rfl rfl (by decide) (by decide)

theorem witness_QuiescingBegins :
    (∀ e ∈ [EngineState.active, .stalled, .broken], (oneSlot e (slot 1)).Settled) ∧
    (let s := oneSlot .active (slot 1)
     s.rstn = true ∧ s.slots ≠ [] ∧ s.segmentStart = 0 ∧ s.ring.head = 0 ∧ s.segments.head?.map Segment.seq = some 0 ∧
     (∃ e ∈ s.segments, e.seq = (0 : BitVec 64).toNat) ∧ s.eng.pendingTarget = none) ∧
    (let s := { oneSlot .active (slot 1) with eng := { (oneSlot .active (slot 1)).eng with pendingTarget := some 0 } }
     s.eng.pendingTarget = some 0 ∧ s.segmentStart ≤ 0) :=
  ⟨settled_oneSlot, by decide, by decide⟩

theorem witness_QuiescingEndsAtOnce :
    ready.Settled ∧ ready.rstn = true ∧ ready.slots = [] ∧ ready.eng.state = .active ∧ ready.segmentStart = 0 ∧ ready.ring.head = 0 ∧
    ready.segments.head?.map Segment.seq = some 0 ∧ (∃ e ∈ ready.segments, e.seq = (0 : BitVec 64).toNat) ∧
    ready.eng.pendingTarget = none :=
  ⟨settled_ready, by decide⟩

theorem witness_QuiescingTurnedAway :
    (inState .off).rstn = true ∧ (∀ e ∈ [EngineState.opening, .quiescing, .rolling, .closing, .scanning, .resetting],
      (inState e).eng.state = e) ∧ 2 < (3 : Byte).toNat ∧
    (let s := { ready with ring := { ready.ring with head := 1 }, segments := [] }
     s.eng.state = .active ∧ 0 < s.ring.head ∧ ∀ e ∈ s.segments, e.seq ≠ (1 : BitVec 64).toNat) ∧
    (let s := { ready with eng := { ready.eng with pendingTarget := some 2 }, segments := [{ seq := 3, tag := 0, source := .timer }] }
     s.eng.pendingTarget = some 2 ∧ 2 < s.segmentStart ∧ 2 < (3 : BitVec 64).toNat) := by decide

/-- A device whose ring is full. -/
def fullRing (s : State) : State := { s with ring := { s.ring with tail := 256 } }

theorem witness_MarkerCommand :
    (ready.rstn = true ∧ ready.eng.state = .active ∧ ready.segments.length < 16 ∧ ready.slots.length < 8 ∧
      ready.ring.tail - ready.ring.head < 2 ^ ready.layout.order) ∧
    (let s := { ready with ring := { ready.ring with tail := 191 } }
     s.layout.highWater * 2 ^ s.layout.order / 8 = s.ring.tail + 1 - s.ring.head ∧ s.ring.highArmed = true ∧
     s.port.mask.getLsbD 0 = true ∧ s.port.events.length < 32) ∧
    (inState .stalled).eng.state ≠ .active ∧
    16 ≤ ({ ready with segments := List.replicate 16 { seq := 0, tag := 0, source := .start } } : State).segments.length ∧
    8 ≤ ({ ready with slots := List.replicate 8 (slot 1) } : State).slots.length ∧
    2 ^ (fullRing ready).layout.order ≤ (fullRing ready).ring.tail - (fullRing ready).ring.head := by decide

theorem witness_SoftReset :
    (let s := awaiting ready .status
     s.rstn = true ∧ s.eng.state ≠ .resetting ∧ s.down.internalBusy = true ∧ s.up.respReady = true) ∧
    ({ ready.up with respReady := false } : UpLink).respReady = false ∧
    (let s := holding ready [entry 1 0x100040 .engine, entry 2 0x100080 .issue]
     s.rstn = true ∧ s.eng.state ≠ .resetting ∧ s.down.internalBusy = false) ∧
    ((inState .resetting).eng.state = .resetting ∧ (inState .resetting).down.internalBusy = false) := by decide

/-- A soft reset that waits for an old-data read. -/
def resetting : State := awaiting (oneSlot .resetting { slot 1 with abandoned := true, held := none }) (.oldData 1)

theorem witness_SoftResetEnds_responses :
    (responseOf (.oldDataResponse (answer 64 .ok)) = some (answer 64 .ok) ∧ resetting.rstn = true ∧
      resetting.eng.state = .resetting ∧ resetting.down.issuedWith 64 = some (issued 64 (.oldData 1)) ∧
      (issued 64 (.oldData 1)).owner ≠ .forward) ∧
    resetting.ResettingQuiet ∧
    (let p : ViewPlace := { tag := 3, mask := 1, source := .live, internalTag := 64 }
     let s := { awaiting (inState .resetting) .view with views := [p] }
     s.ResettingQuiet ∧ s.down.issuedWith 64 = some (issued 64 .view) ∧ (s.views.find? fun x => x.internalTag = 64) = some p) :=
  ⟨by decide +kernel, fun _ => by decide, fun _ => by decide, by decide, by decide⟩

theorem witness_QuiesceEndProceeds :
    ∀ a ∈ [Action.commit, .stop, .rollback 0],
      let s := { inState .quiescing with eng := { (inState .quiescing).eng with action := some a } }
      s.rstn = true ∧ s.eng.state = .quiescing ∧ s.slots = [] ∧ s.eng.action = some a := by decide

/-- A state whose waited-for status write has returned. -/
def returned (s : State) : State := { s with watch := { s.watch with occasion := .returned } }

theorem witness_OpenRecordAssigned :
    let s := { returned (inState .opening) with ring := State.reset.ring }
    s.rstn = true ∧ s.eng.state = .opening ∧ s.watch.occasion = .returned ∧
    s.ring = { head := 0, frontier := 0, tail := 0, highArmed := true, fullReported := false } ∧
    1 < s.layout.highWater * 2 ^ s.layout.order / 8 := by decide

theorem witness_ReplayReadsSlots :
    let p : Replay := { replay 0 12 [] with readCursor := 12, begun := false }
    let s := replayAt (returned (inState .rolling)) p
    s.Settled ∧ s.rstn = true ∧ s.eng.state = .rolling ∧ s.watch.occasion = .returned ∧ s.replay = some p ∧ p.places = [] ∧
    p.target < p.readCursor ∧ ((replay 0 0 []).readCursor = (replay 0 0 []).target ∧ (replay 0 0 []).cursor = 0) :=
  ⟨settled_of_empty rfl rfl (by decide) (by decide), by decide⟩

theorem witness_RollbackEnds :
    (let s := replayAt (inState .rolling) (replay 0 0 [])
     s.rstn = true ∧ s.eng.state = .rolling ∧ s.replay = some (replay 0 0 []) ∧ (replay 0 0 []).begun = true ∧
     (replay 0 0 []).cursor = (replay 0 0 []).target ∧ (replay 0 0 []).places = [] ∧ s.hold = { queue := [], waiting := none } ∧
     s.watch.outstanding = false ∧ (replay 0 0 []).faults = 0 ∧ s.eng.cause = none ∧ s.port.mask.getLsbD 3 = true ∧
     s.port.mask.getLsbD 11 = true ∧ s.port.events.length < 31) ∧
    ({ outstanding := true, updatePending := false, occasion := .idle } : Watch).outstanding = true ∧
    0 < ({ replay 0 0 [] with faults := 1 } : Replay).faults := by decide

theorem witness_ClosingEnds :
    let s := returned (inState .closing)
    s.rstn = true ∧ s.eng.state = .closing ∧ s.watch.occasion = .returned ∧ s.hold = { queue := [], waiting := none } ∧
    s.layout.highWater ≠ 0 ∧ 8 ≤ 2 ^ s.layout.order ∧ s.port.mask.getLsbD 13 = true ∧ s.port.events.length < 32 := by decide

/-- A scan that has found one segment start and stopped. -/
def scanned : Scan :=
  { scanOf 0 with
    epoch := 5, storedState := 1, cursor := 1, readCursor := 9, phase := .run, runStart := some 0
    built := [{ seq := 0, tag := 0, source := .start }], stopped := true }

theorem witness_ScanEnds :
    (let s := { inState .scanning with scan := some scanned }
     s.rstn = true ∧ s.eng.state = .scanning ∧ s.scan = some scanned ∧ s.eng.cause = none ∧ s.stall = none ∧
     s.watch.outstanding = false ∧ s.hold = { queue := [], waiting := none } ∧ s.port.mask = 0xFFFF ∧ s.port.events.length < 28) ∧
    (∀ c ∈ [scanned, { scanned with storedState := 0 }, { scanned with storedState := 2, storedCause := 7 },
        { scanned with storedState := 3 }, { scanned with storedState := 3, storedTarget := 9 }, { scanned with built := [] },
        { scanned with built := [], cursor := 256 }],
      c.stopped = true ∧ (∀ x ∈ c.places, x.reading = false) ∧ c.storedState ≤ 3 ∧
      (c.storedState = 2 → 1 ≤ c.storedCause ∧ c.storedCause ≤ 7) ∧ c.startSeq ≤ c.cursor) ∧
    scanned.built.getLast? = some { seq := 0, tag := 0, source := .start } ∧
    scanned.cursor - scanned.startSeq < 2 ^ (inState .scanning).layout.order ∧
    2 ^ (inState .scanning).layout.order ≤ 256 - scanned.startSeq := by decide +kernel

theorem witness_UpstreamHandshake :
    (inState .resetting).upReady = false ∧
    (let s := { ready with up := { ready.up with tags := [3] } }
     s.upReady = true ∧ (request 3 .read 0x40).tag ∈ s.up.tags ∧ s.up.tags.Nodup ∧ s.up.respReady = true) ∧
    ({ ready.up with respReady := false } : UpLink).respReady = false ∧
    ready.rstn = true ∧ ({ ready with rstn := false } : State).rstn = false := by decide

theorem witness_LineAndModeOfARequest :
    (ready.regions[1].enabled = true ∧ ready.regions[1].base.toNat ≤ (0x200000 : Addr).toNat ∧
      (0x200000 : Addr).toNat < ready.regions[1].base.toNat + 2 ^ ready.regions[1].order ∧
      ∀ (j : Nat) (hj : j < 1), ¬ (ready.regions[j].base.toNat ≤ (0x200000 : Addr).toNat ∧
        (0x200000 : Addr).toNat < ready.regions[j].base.toNat + 2 ^ ready.regions[j].order)) ∧
    ∀ (i : Nat) (h : i < 16), ready.regions[i].enabled = true → ¬ ready.regions[i].base.toNat ≤ (0x40 : Addr).toNat := by
  refine ⟨⟨by decide, by decide, by decide, ?_⟩, by decide⟩
  intro j hj
  match j, hj with
  | 0, _ => exact (show ¬ ((0x100000 : Addr).toNat ≤ (0x200000 : Addr).toNat ∧ _ < (0x100000 : Addr).toNat + 2 ^ 20) by decide)

/-- The view bit is 36. -/
def viewing (s : State) : State := { s with addressing := { fold := 1, viewBit := some 36 } }

theorem witness_AnsweredAtClassification :
    ready.upReady = true ∧ ready.Settled ∧ (request 3 .read 0x41).tag ∉ ready.up.tags ∧ (0x41 : Addr).toNat % 64 ≠ 0 ∧
    (let r := { request 3 (.write 0) 0x40 with mask := 0 }
     r.addr.toNat % 64 = 0 ∧ r.mask = 0 ∧ ∃ d, r.op = .write d) ∧
    ({ request 3 .read 0x40 with mask := 0 } : UpRequest).op = .read ∧
    ((viewing ready).addressing.viewBit = some 36 ∧ (0x1000000040 : Addr).getLsbD 36 = true) ∧
    (ready.eng.state ≠ .off ∧ ready.layout.ringBase.toNat ≤ (0x10000 : Addr).toNat ∧
      (0x17FC0 : Addr).toNat < ready.layout.ringBase.toNat + 128 * 2 ^ ready.layout.order) ∧
    ready.mode 0x200000 = .frozen :=
  ⟨by decide, settled_ready, by decide, by decide, ⟨by decide, by decide, 0, rfl⟩, rfl, by decide, by decide, by decide⟩

/-- Memory is ready. -/
def memReady (s : State) : State := { s with down := { s.down with ready := true } }

/-- The links of a device that has taken nothing are sound. -/
theorem linksSound_inState (e : EngineState) : (inState e).LinksSound ∧ (memReady (inState e)).LinksSound :=
  ⟨⟨(by simp [inState, State.reset]), (by simp [inState, State.reset]), by simp [inState, State.reset]⟩,
    ⟨(by simp [memReady, inState, State.reset]), (by simp [memReady, inState, State.reset]), by simp [memReady, inState, State.reset]⟩⟩

theorem witness_ForwardedOnArrival :
    ready.upReady = true ∧ ready.Settled ∧ ready.LinksSound ∧ ready.down.ready = false ∧
    ((memReady ready).upReady = true ∧ (memReady ready).Settled ∧ (memReady ready).LinksSound ∧ (memReady ready).down.ready = true ∧
      (memReady ready).down.toIssue = []) ∧
    (let r := request 3 .read 0x100040
     r.tag ∉ ready.up.tags ∧ r.addr.toNat % 64 = 0 ∧ r.mask ≠ 0 ∧ ready.addressing.viewFlag r.addr = false ∧ ready.eng.state ≠ .rolling) ∧
    (let x := ready.addressing.canonical 0x40
     ready.layout.inRing x = false ∧ x ≠ ready.layout.controlLine ∧ ready.mode x = .pass) ∧
    (ready.mode 0x100040 = .journaled ∧ (inState .broken).eng.state = .broken ∧ (inState .off).eng.state = .off) ∧
    (let s := { ready with touch := { entries := [{ line := 0x100040, seq := 1 }], saturated := false } }
     s.mode 0x100040 = .journaled ∧ s.eng.state = .active ∧ ∃ e ∈ s.touch.entries, e.line = 0x100040) :=
  ⟨by decide, settled_ready, (linksSound_inState .active).1, by decide,
    ⟨by decide, settled_of_empty rfl rfl (by decide) (by decide), (linksSound_inState .active).2, by decide, by decide⟩,
    by decide, by decide, by decide, by decide⟩

theorem settled_holding {s : State} {l : List Entry} (h : s.Settled) (hw : s.hold.waiting = none)
    (hl : (l.find? fun e => e.wait = .ready) = none) : (holding s l).Settled :=
  ⟨by simpa [State.firstReady, holding] using hl, .inl hw, h.quiesce, h.reset⟩

/-- A device with one entry to be decided. -/
def deciding (e : EngineState) (k : HeldKind) (x : Addr) (m : Mask) : State :=
  holding (inState e) [{ req := { tag := 1, kind := k, line := x, mask := m, watched := true }, wait := .ready }]

/-- The long operations. -/
def longStates : List EngineState := [.opening, .quiescing, .rolling, .closing, .scanning]

theorem no_older_slot {s : State} {t : UpTag} (h : ∀ e ∈ s.hold.queue, e.wait ≠ .slot) :
    ¬ ∃ a y b, s.hold.queue = a ++ y :: b ∧ y.wait = .slot ∧ ∀ z ∈ a ++ [y], z.req.tag ≠ t := by
  rintro ⟨a, y, b, hq, hy, -⟩
  exact h y (by simp [hq]) hy

theorem witness_HeldBehindItsLine :
    (∀ l ∈ [[entry 1 0x100040 .engine], entry 1 0x100040 .engine :: (fullQueue .engine).tail], (holding ready l).Settled) ∧
    (let s := holding ready [entry 1 0x100040 .engine]
     let r := request 3 .read 0x100040
     s.upReady = true ∧ r.tag ∉ s.up.tags ∧ r.addr.toNat % 64 = 0 ∧ r.mask ≠ 0 ∧
     (∃ e ∈ s.hold.queue, e.req.line = (s.heldRequest r).line) ∧ r.op = .read) ∧
    (let s := holding ready (entry 1 0x100040 .engine :: (fullQueue .engine).tail)
     let r := request 3 (.write 0) 0x100040
     s.upReady = true ∧ (∃ e ∈ s.hold.queue, e.req.line = (s.heldRequest r).line) ∧ 16 ≤ s.hold.queue.length ∧
     s.addressing.viewFlag r.addr = false ∧ s.layout.inRing (s.heldRequest r).line = false ∧ s.mode (s.heldRequest r).line ≠ .frozen) ∧
    (let w := (entry 3 0x100040 .line).req
     let s : State := { ready with hold := { queue := (fullQueue .engine).tail, waiting := some w } }
     s.firstReady = none ∧ s.hold.waiting = some w ∧ s.hold.queue.length < 16 ∧ s.quiesceDue = false ∧
     (State.submit { s with hold := { s.hold with waiting := none } } w).quiesceDue = false) := by
  refine ⟨?_, by decide +kernel, by decide +kernel, by decide +kernel⟩
  intro l hl
  apply settled_holding settled_ready rfl
  revert l; decide

theorem witness_HeldBehindItsLine_reads :
    (∀ e ∈ EngineState.off :: .active :: .stalled :: .broken :: longStates, ∀ k ∈ [HeldKind.read, .viewRead, .write 0],
      (deciding e k 0x100040 1).quiesceDue = false ∧ (deciding e k 0x100040 1).eng.state ≠ .resetting ∧
      (deciding e k 0x100040 1).firstReady.map (·.req.kind) = some k) ∧
    ready.mode 0x100040 = .journaled ∧ ready.mode 0x40 ≠ .journaled ∧
    (let s := { inState .quiescing with eng := { (inState .quiescing).eng with cause := some .recordFault } }
     s.eng.state ∈ [EngineState.quiescing, .closing] ∧ s.eng.cause ≠ none) ∧
    16 ≤ ({ ready with views := List.replicate 16 ⟨3, 1, .live, 64⟩ } : State).views.length ∧
    ({ entries := [{ line := 0x100040, seq := 1 }], saturated := false } : Touch).lookup 0x100040 = some 1 ∧
    ({ entries := [], saturated := true } : Touch).lookup 0x100040 = none := by decide +kernel

theorem witness_HeldBehindItsLine_writes :
    (let s := deciding .active (.write 0) 0x10000 1
     s.eng.state ≠ .off ∧ s.layout.inRing 0x10000 = true ∧ s.mode 0x200000 = .frozen) ∧
    (∀ e ∈ EngineState.off :: .active :: .stalled :: .broken :: longStates,
      let s := deciding e (.write 0) 0x2000 1
      ¬ (s.eng.state ≠ .off ∧ s.layout.inRing 0x2000 = true) ∧ s.mode 0x2000 ≠ .frozen ∧ s.layout.controlLine = 0x2000 ∧
      s.firstReady.map (·.req.watched) = some true) ∧
    ((∀ j, j < 64 → (0xFFFF : Mask).getLsbD j = decide (j < 16)) ∧
      (∀ j, j < 64 → (0xFF0000 : Mask).getLsbD j = (decide (16 ≤ j) && decide (j < 24))) ∧
      (¬ ∀ j, j < 64 → (1 : Mask).getLsbD j = decide (j < 16)) ∧
      ¬ ∀ j, j < 64 → (1 : Mask).getLsbD j = (decide (16 ≤ j) && decide (j < 24))) ∧
    (let s := deciding .active (.write 0) 0x100040 1
     ¬ (s.eng.state ≠ .off ∧ s.layout.inRing 0x100040 = true) ∧ (0x100040 : Addr) ≠ s.layout.controlLine ∧
     s.mode 0x100040 = .journaled ∧ (∀ t ∈ s.touch.entries, t.line ≠ 0x100040) ∧ ¬ 8 ≤ s.slots.length ∧
     s.ring.tail - s.ring.head < 2 ^ s.layout.order) ∧
    (∀ p ∈ [Policy.stall, .refuse, .breakJournal],
      (fullRing (deciding .active (.write 0) 0x100040 1)).ring.tail - 0 = 2 ^ (inState .active).layout.order ∧
      ({ ready.layout with policy := p } : Layout).policy = p) ∧
    (¬ ∃ a y b, (deciding .active (.write 0) 0x100040 1).hold.queue = a ++ y :: b ∧ y.wait = .slot ∧
      ∀ z ∈ a ++ [y], z.req.tag ≠ 1) ∧
    (let s := holding ready [entry 2 0x100080 .slot, entry 1 0x100040 .ready]
     s.firstReady = some (entry 1 0x100040 .ready) ∧
     ∃ a y b, s.hold.queue = a ++ y :: b ∧ y.wait = .slot ∧ ∀ z ∈ a ++ [y], z.req.tag ≠ 1) :=
  ⟨by decide +kernel, by decide +kernel, by decide +kernel, by decide +kernel, by decide +kernel, no_older_slot (by decide),
    by decide +kernel, ⟨[], _, _, rfl, by decide, by decide⟩⟩

/-- What a write to a journaled line that meets no older entry starts from. -/
theorem witness_JournalOperationStarts :
    ready.upReady = true ∧ ready.Settled ∧ (holding ready (fullQueue .engine)).Settled ∧
    (let r := request 3 (.write 0) 0x100040
     let x := ready.addressing.canonical r.addr
     r.tag ∉ ready.up.tags ∧ r.addr.toNat % 64 = 0 ∧ r.mask ≠ 0 ∧ r.op = .write 0 ∧ ready.addressing.viewFlag r.addr = false ∧
     ready.eng.state = .active ∧ ready.layout.inRing x = false ∧ x ≠ ready.layout.controlLine ∧ ready.mode x = .journaled ∧
     (∀ e ∈ ready.hold.queue, e.req.line ≠ x ∧ e.wait ≠ .slot) ∧ ready.hold.queue.length < 16 ∧
     (∀ e ∈ ready.touch.entries, e.line ≠ x) ∧ ready.slots.length < 8 ∧
     ready.ring.tail - ready.ring.head < 2 ^ ready.layout.order ∧ ready.port.mask = 0xFFFF ∧ ready.port.events.length < 31 ∧
     16 ≤ (fullQueue .engine).length ∧ ∀ e ∈ fullQueue .engine, e.req.line ≠ x ∧ e.wait ≠ .slot) :=
  ⟨by decide, settled_ready, settled_holding settled_ready rfl (by decide), by decide +kernel⟩

theorem witness_JournaledRequestHeld :
    (∀ e ∈ [EngineState.opening, .rolling, .closing, .scanning, .stalled], (inState e).Settled) ∧
    (oneSlot .quiescing (slot 1)).Settled ∧
    (holding ready [entry 1 0x300000 .slot]).Settled ∧ (holding (inState .stalled) (fullQueue .space)).Settled ∧
    (let s := holding ready [entry 1 0x300000 .slot]
     s.upReady = true ∧ s.eng.state = .active ∧ s.mode 0x100040 = .journaled ∧ (∀ e ∈ s.touch.entries, e.line ≠ 0x100040) ∧
     (∀ e ∈ s.hold.queue, e.req.line ≠ 0x100040) ∧ ∃ e ∈ s.hold.queue, e.wait = .slot) := by
  refine ⟨?_, ⟨by decide, by decide, by decide, by decide⟩, settled_holding settled_ready rfl (by decide),
    settled_holding (settled_of_empty rfl rfl (by decide) (by decide)) rfl (by decide), by decide⟩
  intro e he
  simp only [List.mem_cons, List.not_mem_nil, or_false] at he
  rcases he with rfl | rfl | rfl | rfl | rfl <;> exact settled_of_empty rfl rfl (by decide) (by decide)

/-- The ring-full policy is one of the others. -/
def underPolicy (p : Policy) : State := { fullRing ready with layout := { ready.layout with policy := p } }

theorem witness_RingFullPolicies :
    (∀ p ∈ [Policy.stall, .refuse, .breakJournal],
      (underPolicy p).Settled ∧ (underPolicy p).LinksSound ∧
      (let s := underPolicy p
       let x := s.addressing.canonical 0x100040
       s.upReady = true ∧ s.eng.state = .active ∧ s.layout.policy = p ∧ s.layout.inRing x = false ∧ x ≠ s.layout.controlLine ∧
       s.mode x = .journaled ∧ s.slots.length < 8 ∧ 2 ^ s.layout.order ≤ s.ring.tail - s.ring.head ∧ s.hold.queue.length < 16 ∧
       s.hold = { queue := [], waiting := none } ∧ s.eng.cause = none ∧ (∀ e ∈ s.touch.entries, e.line ≠ x))) ∧
    (holding (underPolicy .stall) (fullQueue .engine)).Settled ∧ 16 ≤ (fullQueue .engine).length := by
  refine ⟨?_, settled_holding (settled_of_empty rfl rfl (by decide) (by decide)) rfl (by decide), by decide⟩
  intro p hp
  refine ⟨settled_of_empty rfl rfl (show ready.eng.state ≠ _ by decide) (show ready.eng.state ≠ _ by decide),
    ⟨(linksSound_inState .active).1.tags, (linksSound_inState .active).1.classes, (linksSound_inState .active).1.handed⟩, ?_⟩
  revert p; decide

theorem witness_ViewReads :
    (∀ e ∈ [EngineState.off, .broken, .scanning, .rolling, .active], (viewing (inState e)).Settled) ∧
    (let s := viewing ready
     let r := request 3 .read 0x1000100040
     s.upReady = true ∧ r.op = .read ∧ s.addressing.viewFlag r.addr = true ∧ s.addressing.canonical r.addr = 0x100040 ∧
     s.mode 0x100040 = .journaled ∧ s.touch.lookup 0x100040 = none ∧ s.touch.saturated = false ∧ s.views.length < 16 ∧
     s.mode 0x40 ≠ .journaled) ∧
    (({ entries := [{ line := 0x100040, seq := 1 }], saturated := false } : Touch).lookup 0x100040 = some 1) ∧
    16 ≤ ({ viewing ready with views := List.replicate 16 ⟨3, 1, .live, 64⟩ } : State).views.length ∧
    ((viewing (inState .rolling)).eng.state = .rolling ∧ (viewing (inState .broken)).eng.state = .broken) := by
  refine ⟨?_, by decide, by decide, by decide, by decide⟩
  intro e he
  simp only [List.mem_cons, List.not_mem_nil, or_false] at he
  rcases he with rfl | rfl | rfl | rfl | rfl <;> exact settled_of_empty rfl rfl (by decide) (by decide)

theorem witness_watched :
    ∀ e ∈ [EngineState.active, .stalled, .broken, .opening, .rolling, .closing, .scanning],
      (inState e).Settled ∧ (inState e).LinksSound ∧
      (let s := inState e
       let r : UpRequest := { tag := 3, op := .write 0, addr := 0x2000, mask := 0xFFFF }
       let x := s.addressing.canonical r.addr
       s.upReady = true ∧ s.eng.state = e ∧ r.tag ∉ s.up.tags ∧ r.addr.toNat % 64 = 0 ∧ s.addressing.viewFlag r.addr = false ∧
       s.eng.state ≠ .off ∧ x = s.layout.controlLine ∧ s.layout.inRing x = false ∧ s.mode x ≠ .frozen ∧
       (∀ q ∈ s.hold.queue, q.req.line ≠ x) ∧ s.port.mask = 0xFFFF ∧ s.port.events.length < 32) := by
  intro e he
  simp only [List.mem_cons, List.not_mem_nil, or_false] at he
  rcases he with rfl | rfl | rfl | rfl | rfl | rfl | rfl <;>
    exact ⟨settled_of_empty rfl rfl (by decide) (by decide), (linksSound_inState _).1, by decide⟩

theorem witness_ReleaseMovesHead :
    (∀ j, j < 64 → (0xFFFF : Mask).getLsbD j = decide (j < 16)) ∧
    (let s := { ready with segments := [{ seq := 4, tag := 0, source := .timer }], ring := { ready.ring with frontier := 7, tail := 7 } }
     let limit := min s.segmentStart s.ring.frontier
     s.ring.head < limit + 1 ∧ limit = 4) ∧
    (let s := { ready with segments := [{ seq := 1, tag := 0, source := .timer }] }
     s.ring.head < min 1 (min s.segmentStart s.ring.frontier)) ∧
    (let s := fullRing { inState .stalled with segments := [{ seq := 1, tag := 0, source := .timer }] }
     s.eng.state = .stalled ∧ s.ring.head < min 1 (min s.segmentStart s.ring.frontier) ∧ s.ring.tail - 1 < 2 ^ s.layout.order) := by
  decide

/-- A device with records between a segment start, 4, and a frontier, 7: the limit of a release is 4 (R116). -/
def releasable : State := { ready with
  segments := [{ seq := 4, tag := 0, source := .timer }], ring := { ready.ring with head := 2, frontier := 7, tail := 7 } }

def release (v : Nat) : Instr := .upstreamRequest
  { tag := 3, op := .write (fieldLine 0 8 v ||| fieldLine 8 4 5), addr := 0x2000, mask := 0xFFFF }

/-- R116: a release of the limit raises nothing. -/
theorem test_release_limit : ∃ t, exec (release 4) releasable = .next t ∧ t.ring.head = 4 ∧ t.port.events = [] :=
  ⟨_, rfl, by decide +kernel, by decide +kernel⟩

/-- R116: a release one above the limit is clamped to it. -/
theorem test_release_clamped : ∃ t, exec (release 5) releasable = .next t ∧ t.ring.head = 4 ∧
    t.port.events = [{ kind := .releaseClamped, state := .active, seq := some 5, detail := none, count := none }] :=
  ⟨_, rfl, by decide +kernel, by decide +kernel⟩

theorem witness_WatchedMarkAndMalformed :
    (∀ j, j < 64 → (0xFF0000 : Mask).getLsbD j = (decide (16 ≤ j) && decide (j < 24))) ∧
    (¬ (∀ j, j < 64 → (0x1FFFF : Mask).getLsbD j = (decide (16 ≤ j) && decide (j < 24))) ∧
      ¬ (∀ j, j < 64 → (0x1FFFF : Mask).getLsbD j = decide (j < 16)) ∧ (0x1FFFF : Mask) ≠ 0) ∧
    (ready.segments.length < 16 ∧ ready.slots.length < 8 ∧ ready.ring.tail - ready.ring.head < 2 ^ ready.layout.order) ∧
    16 ≤ (List.replicate 16 ({ seq := 0, tag := 0, source := .start } : Segment)).length ∧ 8 ≤ (List.replicate 8 (slot 1)).length ∧
    2 ^ (fullRing ready).layout.order ≤ (fullRing ready).ring.tail - (fullRing ready).ring.head := by
  decide

/-- A device with requests waiting to be issued. -/
def handing (s : State) (l : List DownRequest) : State := { s with down := { s.down with toIssue := l } }

theorem witness_RequestIssued :
    ready.down.toIssue = [] ∧ (handing ready [issued 64 .status]).Settled ∧
    (let s := handing ready [issued 64 .status]
     s.rstn = true ∧ s.down.toIssue ≠ [] ∧ s.down.picked 0 = some (issued 64 .status) ∧ (issued 64 .status).owner ≠ .forward) ∧
    (let p := replay 0 3 [{ seq := 3, header := .ok 0, data := .ok 0, writing := true }]
     let s := replayAt (handing (inState .rolling) [issued 64 (.restore 3)]) p
     s.Settled ∧ s.down.picked 0 = some (issued 64 (.restore 3)) ∧ s.eng.state = .rolling ∧ s.replay = some p ∧ p.places ≠ [] ∧
     ∀ x ∈ p.places, x.seq ≠ 3 - 1) ∧
    (let s := { handing ready [issued 3 .forward] with up := { ready.up with tags := [3], pendingForward := some 3 } }
     s.Settled ∧ s.down.picked 0 = some (issued 3 .forward) ∧
     s.up.pendingForward = some ((issued 3 .forward).tag.truncate 6) ∧ (∀ e ∈ s.hold.queue, e.req.tag ≠ 3) ∧
     s.hold.waiting = none) ∧
    (let s := handing (holding ready [entry 3 0x100040 .issue]) [issued 3 .forward]
     s.Settled ∧ s.down.picked 0 = some (issued 3 .forward) ∧ s.up.pendingForward = none ∧
     entry 3 0x100040 .issue ∈ s.hold.queue ∧ (entry 3 0x100040 .issue).req.tag = (issued 3 .forward).tag.truncate 6 ∧
     (entry 3 0x100040 .issue).wait = .issue ∧ s.hold.waiting = none ∧ s.eng.state ≠ .quiescing ∧
     (∀ q ∈ s.hold.queue, q ≠ entry 3 0x100040 .issue → q.req.tag ≠ 3)) ∧
    -- the reads of one seq may go in either order, those of another after them
    (let l := [{ issued 64 (.scanHeader 1) with addr := 0 }, { issued 65 (.scanData 1) with addr := 64 },
               { issued 66 (.scanHeader 2) with addr := 128 }]
     (handing ready l).down.issuable.map (·.tag) = [64, 65]) :=
  ⟨by decide, settled_of_empty rfl rfl (by decide) (by decide), by decide +kernel,
    ⟨settled_of_empty rfl rfl (by decide) (by decide), by decide +kernel⟩,
    ⟨settled_of_empty rfl rfl (by decide) (by decide), by decide +kernel⟩,
    ⟨⟨by decide, .inl rfl, by decide, by decide⟩, by decide +kernel⟩, by decide +kernel⟩

theorem witness_ForwardedAndStrayResponses :
    ready.Settled ∧
    (let s := { ready with down := { ready.down with issued := [issued 3 .forward] } }
     s.rstn = true ∧ (answer 3 .ok).tag.toNat < 64 ∧ s.down.issuedWith 3 = some (issued 3 .forward) ∧ (issued 3 .forward).op = .read ∧
     (answer 3 .memError).status ≠ .ok ∧ ({ issued 3 .forward with op := .write 0 } : DownRequest).op = .write 0) ∧
    ready.down.inUse 5 = false ∧ (64 ≤ (65 : DownTag).toNat ∧ ready.down.inUse 65 = false) :=
  ⟨settled_ready, by decide +kernel⟩

theorem witness_OldDataResponse :
    (awaiting (oneSlot .active (slot 1)) (.oldData 1)).Settled ∧
    (let s := awaiting (oneSlot .active (slot 1)) (.oldData 1)
     s.rstn = true ∧ s.down.issuedWith (answer 64 .ok).tag = some (issued 64 (.oldData 1)) ∧ s.slotOf 1 = some (slot 1) ∧
     s.eng.state ≠ .resetting ∧ (slot 1).abandoned = false ∧ (slot 1).header.seq = 1 ∧ (answer 64 .memError).status ≠ .ok ∧
     s.hold = { queue := [], waiting := none } ∧ s.eng.cause = none) ∧
    (∀ e ∈ [EngineState.broken, .quiescing], ∀ b : Bool,
      let j := { slot 1 with abandoned := b }
      let s := awaiting (oneSlot e j) (.oldData 1)
      s.Settled ∧ s.slotOf 1 = some j ∧ j.abandoned = b ∧ s.eng.state = e) ∧
    (∀ a ∈ [some (Action.rollback 0), some .commit], ∀ c ∈ [none, some Cause.recordFault],
      ({ (inState .quiescing).eng with action := a, cause := c } : Engine).action = a) := by
  refine ⟨settled_of_empty rfl rfl (by decide) (by decide), by decide, ?_, by decide⟩
  intro e he b
  simp only [List.mem_cons, List.not_mem_nil, or_false] at he
  rcases he with rfl | rfl <;> exact ⟨⟨rfl, .inl rfl, rfl, rfl⟩, by cases b <;> decide +kernel⟩

/-- A slot of the OPEN record whose header write is outstanding. -/
def openSlot : Slot :=
  { header := { header 0 with kind := .opening }, oldData := .notNeeded, headerWrite := .outstanding, dataWrite := .notIssued
    held := none, abandoned := false }

theorem witness_RecordWriteAck :
    (awaiting (oneSlot .active (writing 1)) (.recordData 1)).Settled ∧
    (let s := awaiting (oneSlot .active (writing 1)) (.recordData 1)
     s.rstn = true ∧ s.down.issuedWith 64 = some (issued 64 (.recordData 1)) ∧ s.slotOf 1 = some (writing 1) ∧
     s.eng.state = .active ∧ (writing 1).abandoned = false ∧ (∀ k ∈ s.slots, k.headerWrite ≠ .acknowledged) ∧
     s.ring.frontier < s.ring.tail ∧ s.eng.cause = none ∧ s.hold = { queue := [], waiting := none } ∧
     (answer 64 .memError).status ≠ .ok) ∧
    (let k := { writing 1 with headerWrite := .acknowledged, dataWrite := .acknowledged }
     k.header.seq = 1 ∧ k.abandoned = false ∧ k.headerWrite = .acknowledged ∧ k.dataWrite = .acknowledged) ∧
    (let s := { awaiting (oneSlot .opening openSlot) (.recordHeader 0) with
       ring := { ready.ring with frontier := 0, tail := 1 } }
     s.slotOf 0 = some openSlot ∧ s.eng.state = .opening ∧ openSlot.header.kind = .opening ∧ s.ring.frontier < s.ring.tail) ∧
    (∀ e ∈ [EngineState.broken, .quiescing], ∀ b : Bool,
      let j := { writing 1 with abandoned := b }
      let s := awaiting (oneSlot e j) (.recordData 1)
      s.Settled ∧ s.slotOf 1 = some j ∧ j.abandoned = b ∧ s.eng.state = e) := by
  refine ⟨settled_of_empty rfl rfl (by decide) (by decide), by decide +kernel, by decide +kernel, by decide +kernel, ?_⟩
  intro e he b
  simp only [List.mem_cons, List.not_mem_nil, or_false] at he
  rcases he with rfl | rfl <;> exact ⟨⟨rfl, .inl rfl, rfl, rfl⟩, by cases b <;> decide +kernel⟩

/-- The status write is outstanding. -/
def writingStatus (s : State) (pending : Bool) (o : Occasion) : State :=
  { awaiting s .status with watch := { outstanding := true, updatePending := pending, occasion := o } }

theorem witness_StatusWriteResponse :
    (∀ e ∈ [EngineState.active, .stalled, .broken, .opening, .rolling, .closing], ∀ p o, (writingStatus (inState e) p o).Settled) ∧
    (∀ p o, (writingStatus (oneSlot .quiescing (slot 1)) p o).Settled) ∧
    (let s := writingStatus ready true .idle
     s.rstn = true ∧ s.down.issuedWith 64 = some (issued 64 .status) ∧ s.watch.occasion = .idle ∧ s.eng.state ≠ .resetting ∧
     s.watch.outstanding = true ∧ s.eng.cause = none ∧ (answer 64 .memError).status ≠ .ok ∧ s.segments ≠ []) ∧
    (∀ a ∈ [some (Action.rollback 0), some .stop, none],
      ({ (inState .quiescing).eng with action := a, cause := some .recordFault } : Engine).action = a) ∧
    (∀ x ∈ [(EngineState.opening, Instr.openRecordAssign), (.rolling, .replayStart), (.closing, .closingEnd)],
      (writingStatus (inState x.1) false .inFlight).watch.occasion = .inFlight ∧ (inState x.1).eng.state = x.1) ∧
    (let s := writingStatus (inState .broken) true .idle
     s.eng.state = .broken ∧ s.watch.updatePending = true ∧ s.watch.occasion = .idle ∧ s.eng.state ≠ .resetting) ∧
    (let s := writingStatus { inState .opening with ring := State.reset.ring, segments := [] } true .queued
     s.Settled ∧ s.watch.occasion ∈ [Occasion.queued, .inFlight] ∧ s.segments = [] ∧
     s.ring = { head := 0, frontier := 0, tail := 0, highArmed := true, fullReported := false } ∧
     1 < s.layout.highWater * 2 ^ s.layout.order / 8 ∧ s.layout.highWater ≠ 0 ∧ 8 ≤ 2 ^ s.layout.order) ∧
    (let s := replayAt (writingStatus (inState .rolling) false .inFlight) (replay 0 3 [])
     s.eng.state = .rolling ∧ s.replay = some (replay 0 3 [])) ∧
    (replay 0 3 []).target < (replay 0 3 []).cursor ∧
    (writingStatus (inState .rolling) false .inFlight).watch.outstanding = true := by
  refine ⟨?_, fun p o => ⟨rfl, .inl rfl, rfl, rfl⟩, by decide, by decide, by decide, by decide,
    ⟨settled_of_empty rfl rfl (by decide) (by decide), by decide⟩, by decide, by decide, by decide⟩
  intro e he p o
  simp only [List.mem_cons, List.not_mem_nil, or_false] at he
  rcases he with rfl | rfl | rfl | rfl | rfl | rfl <;>
    exact settled_of_empty rfl rfl (by simp [writingStatus, awaiting, inState]) (by simp [writingStatus, awaiting, inState])

theorem witness_StartControlReadResponse :
    let s := awaiting (inState .opening) .startRead
    s.Settled ∧ s.rstn = true ∧ s.down.issuedWith 64 = some (issued 64 .startRead) ∧ s.eng.state = .opening ∧
    s.hold = { queue := [], waiting := none } :=
  ⟨settled_of_empty rfl rfl (by decide) (by decide), by decide⟩

/-- A control block that a scan can start from: state ACTIVE of epoch 5. -/
def controlLine : Line := fieldLine 32 4 5 ||| fieldLine 36 1 1

theorem witness_RecoverControlReadResponse :
    (let s := awaiting (inState .scanning) .recoverRead
     s.Settled ∧ s.rstn = true ∧ s.down.issuedWith 64 = some (issued 64 .recoverRead) ∧ s.eng.state = .scanning ∧
     s.hold = { queue := [], waiting := none }) ∧
    (lineField controlLine 32 4 ≠ 0 ∧ lineField controlLine 36 1 = 1) ∧
    (lineField (0 : Line) 32 4 = 0) ∧ (3 < lineField (fieldLine 36 1 4) 36 1 ∧ lineField (fieldLine 37 1 8) 37 1 = 8) :=
  ⟨⟨settled_of_empty rfl rfl (by decide) (by decide), by decide⟩, by decide +kernel⟩

theorem witness_ViewReaderResponse :
    let p : ViewPlace := { tag := 3, mask := 1, source := .live, internalTag := 64 }
    let s := { awaiting ready .view with views := [p] }
    let u := holding s [entry 1 0x100040 .engine, entry 2 0x100080 .place, entry 3 0x1000C0 .place]
    (s.Settled ∧ s.rstn = true ∧ s.down.issuedWith 64 = some (issued 64 .view) ∧ s.eng.state ≠ .resetting ∧
      (s.views.find? fun x => x.internalTag = 64) = some p ∧ (∀ e ∈ s.hold.queue, e.wait ≠ .place)) ∧
    (u.Settled ∧ u.hold.queue = [entry 1 0x100040 .engine] ++ entry 2 0x100080 .place :: [entry 3 0x1000C0 .place] ∧
      ∀ y ∈ [entry 1 0x100040 .engine], y.wait ≠ .place) :=
  ⟨⟨settled_of_empty rfl rfl (by decide) (by decide), by decide⟩, ⟨⟨by decide, .inl rfl, by decide, by decide⟩, by decide +kernel⟩⟩

/-- A place of replay for seq 3. -/
def place : ReplayPlace := { seq := 3, header := .outstanding, data := .outstanding, writing := false }

/-- Eight places of a scan, the first at the scan cursor; its header has been read. -/
def scanPlaces (h : ReadState) : List ScanPlace :=
  { seq := 1, header := h, data := .outstanding } :: (List.range 7).map fun i => freshScanPlace (2 + i)

/-- A scan that runs. -/
def scanning (h : ReadState) : Scan := { scanned with phase := .run, places := scanPlaces h, stopped := false }

/-- A header as another kind of record, that starts a segment. -/
def startHeader (q : Nat) : Header := { header q with kind := .mark, source := .timer, segmentStart := q }

set_option maxRecDepth 100000 in
theorem witness_ReplayResponses :
    (let s := awaiting (replayAt (inState .rolling) (replay 0 3 [place])) (.replayHeader 3)
     s.Settled ∧ s.rstn = true ∧ s.down.issuedWith 64 = some (issued 64 (.replayHeader 3)) ∧ s.eng.state = .rolling ∧
     s.replay = some (replay 0 3 [place]) ∧ (replay 0 3 [place]).begun = true ∧ (replay 0 3 [place]).cursor = 3 ∧
     (replay 0 3 [place]).places ≠ [] ∧ place.data = .outstanding) ∧
    (recordValid (headerLine (header 3) 7) 7 3 5 = true ∧ lineField (headerLine (header 3) 7) 0 1 = 2) ∧
    (recordValid (headerLine (startHeader 3) 0) 0 3 5 = true ∧ lineField (headerLine (startHeader 3) 0) 0 1 ≠ 2) ∧
    ((replay 0 3 [place]).target + 1 < 3 ∧ (replay 0 3 [place]).places.length ≤ 8) ∧
    ((replay 2 3 [place]).readCursor = (replay 2 3 [place]).target ∧ 3 = (replay 2 3 [place]).target + 1) ∧
    (let p := replay 0 2 [{ place with writing := true }]
     p.target < p.cursor ∧ ∀ x ∈ p.places.filter (fun x => x.seq ≠ 3), x.seq ≠ p.cursor) ∧
    (let p := replay 0 0 [{ place with writing := true }, { place with seq := 4, writing := true }]
     p.cursor = p.target ∧ p.readCursor = p.target ∧ (p.places.filter fun x => x.seq ≠ 3) ≠ [] ∧
     ∀ x ∈ p.places.filter (fun x => x.seq ≠ 3), x.seq ≠ p.cursor) ∧
    ((replay 0 0 [{ place with writing := true }]).places.filter fun x => x.seq ≠ 3) = [] :=
  ⟨⟨settled_of_empty rfl rfl (by decide) (by decide), by decide⟩, by decide +kernel, by decide +kernel, by decide, by decide,
    by decide, by decide, by decide⟩

set_option maxRecDepth 100000 in
theorem witness_ScanResponses :
    (let c := scanning .outstanding
     let s := awaiting { inState .scanning with scan := some c } (.scanHeader 1)
     s.Settled ∧ s.rstn = true ∧ s.down.issuedWith 64 = some (issued 64 (.scanHeader 1)) ∧ s.eng.state = .scanning ∧
     s.scan = some c ∧ c.stopped = false ∧ c.places.length = 8 ∧ (∀ x ∈ c.places, c.cursor ≤ x.seq) ∧ c.cursor = 1 ∧
     ∀ y ∈ c.places.tail, y.seq ≠ 1 ∧ y.reading = true) ∧
    (let c := { scanning (.ok 0) with stopped := true }
     c.stopped = true ∧ (∀ x ∈ c.places, c.cursor ≤ x.seq ∨ x.reading = true) ∧ ∃ x ∈ c.places, x.reading = true) ∧
    (let c := { scanning (.ok 0) with stopped := true, places := [{ seq := 1, header := .ok 0, data := .ok 0 }] }
     (∀ x ∈ c.places, c.cursor ≤ x.seq) ∧ ∀ x ∈ c.places, x.reading = false) ∧
    -- what the run accepts, and what the seek passes over
    (let c := scanning (.ok 0)
     let h := headerLine { header 1 with segmentStart := 0 } 7
     recordValid h 7 1 c.epoch = true ∧ lineField h 0 1 = 2 ∧ c.runStart = some (lineField h 28 8) ∧
     (∀ e ∈ c.table.entries, e.line ≠ .ofNat 40 (lineField h 16 5)) ∧ c.table.saturated = false ∧ c.table.entries.length < 8192 ∧
     c.built.length < 16) ∧
    (let h := headerLine (startHeader 1) 0
     recordValid h 0 1 5 = true ∧ lineField h 0 1 = 3 ∧ lineField h 28 8 = 1) ∧
    (let h := headerLine (header 257) 7
     recordIntact h 7 5 = true ∧ 1 < lineField h 8 8) ∧
    16 ≤ (List.replicate 16 ({ seq := 0, tag := 0, source := .start } : Segment)).length :=
  ⟨⟨settled_of_empty rfl rfl (by decide) (by decide), by decide +kernel⟩, by decide +kernel, by decide +kernel, by decide +kernel,
    by decide +kernel, by decide +kernel, by decide⟩

/-- Two seqs whose reads have returned, at the replay cursor and at the scan cursor. -/
def twoPlaces : List ReplayPlace := [{ place with header := .error, data := .ok 0 }, { place with seq := 2, header := .error, data := .error }]

set_option maxRecDepth 100000 in
theorem witness_settling :
    (let s := replayAt (inState .rolling) (replay 0 3 twoPlaces)
     s.Bounded ∧ s.eng.state = .rolling ∧ (replay 0 3 twoPlaces).begun = true ∧
     twoPlaces = [] ++ { place with header := .error, data := .ok 0 } :: [{ place with seq := 2, header := .error, data := .error }] ∧
     ∀ y ∈ twoPlaces.tail, y.seq ≠ (replay 0 3 twoPlaces).cursor) ∧
    (let s := { inState .scanning with scan := some (scanning (.ok 0)) }
     s.Bounded ∧ s.eng.state = .scanning ∧ (scanning (.ok 0)).stopped = false ∧ (∀ x ∈ (scanning (.ok 0)).places, x.reading = true) ∧
     (∀ x ∈ (scanning (.ok 0)).places.tail, x.seq ≠ (scanning (.ok 0)).cursor)) ∧
    -- a place whose reads have both failed ends the run
    (let x : ScanPlace := { seq := 1, header := .error, data := .error }
     (scanning .error).SettlesTo x 256 { scanning .error with stopped := true }) := by
  refine ⟨⟨⟨by decide +kernel, by decide +kernel, by decide +kernel, by decide +kernel, by decide +kernel, by decide +kernel, ?_, ?_⟩, by decide +kernel⟩,
    ⟨⟨by decide, by decide, by decide, by decide, by decide, by decide, ?_, ?_⟩, by decide⟩, ?_⟩
  · intro p h; cases h; decide
  · intro c h; cases h
  · intro p h; cases h
  · intro c h; cases h; exact ⟨by decide, by decide, by decide⟩
  · refine .inr (.inr (.inr ⟨?_, ?_, rfl⟩))
    · rintro ⟨h, _⟩; cases h
    · rintro h d ⟨h, _⟩; cases h

theorem witness_TimerExpiries :
    (ready.rstn = true ∧ ready.timer.enabled = false) ∧
    (let t := { ready.timer with enabled := true }
     t.enabled = true ∧ EngineState.stalled ∉ [EngineState.off, .resetting, .active]) ∧
    (ready.eng.state = .active ∧ ready.segments.length < 16 ∧ ready.slots.length < 8 ∧
      ready.ring.tail - ready.ring.head < 2 ^ ready.layout.order) ∧
    (16 ≤ (List.replicate 16 ({ seq := 0, tag := 0, source := .start } : Segment)).length ∧ 8 ≤ (List.replicate 8 (slot 1)).length ∧
      2 ^ (fullRing ready).layout.order ≤ (fullRing ready).ring.tail - (fullRing ready).ring.head) ∧
    ((inState .stalled).eng.state = .stalled ∧ (inState .stalled).hold = { queue := [], waiting := none } ∧
      (inState .stalled).eng.cause = none) := by
  decide

theorem witness_StatusFormat :
    ready.ring.frontier < 2 ^ 64 ∧ (∀ m, ready.eng.pendingTarget = some m → m < 2 ^ 64) ∧
    (∀ p, ready.replay = some p → p.target < 2 ^ 64) ∧ (inState .closing).eng.state = .closing ∧
    (inState .opening).eng.state = .opening ∧ (replayAt (inState .rolling) (replay 0 3 [])).replay = some (replay 0 3 []) := by
  refine ⟨by decide, ?_, ?_, by decide, by decide, by decide⟩ <;> (intro m h; cases h)

theorem witness_RecordFormat :
    (header 3).seq < 2 ^ 64 ∧ (header 3).segmentStart < 2 ^ 64 ∧ (header 3).region < 16 ∧ (header 3).source.code < 256 := by decide

theorem ordered_ready : ready.Ordered where
  headFrontier := by decide
  frontierTail := by decide
  listed := by decide
  start := by decide
  action := by intro h; exact absurd h (by decide)
  rolling := by intro h; exact absurd h (by decide)
  scan := by intro c h; cases h

theorem withinRing_ready : ready.WithinRing where
  held := by decide
  inFlight := by decide
  covered := by intro _ _ q h h'; exact absurd (Nat.lt_of_le_of_lt h h') (by decide)
  sound := fun _ => rfl
  listed := by decide
  action := by intro h; exact absurd h (by decide)
  rolling := by intro h; exact absurd h (by decide)
  scan := by intro h; exact absurd h (by decide)
  off := by intro h; exact absurd h (by decide)
  opening := by intro h; exact absurd h (by decide)

/-- An opening whose OPEN record is to be assigned: it meets the invariants, as a step of it does. -/
def opening : State :=
  { returned (inState .opening) with ring := State.reset.ring, segments := [], pending := [.openRecordAssign] }

theorem withinRing_opening : opening.WithinRing where
  held := by decide
  inFlight := by decide
  covered := by intro _ _ q _ h; exact absurd h (Nat.not_lt_zero q)
  sound := fun _ => rfl
  listed := by decide
  action := by intro h; exact absurd h (by decide)
  rolling := by intro h; exact absurd h (by decide)
  scan := by intro h; exact absurd h (by decide)
  off := by intro h; exact absurd h (by decide)
  opening := fun _ => by decide

/-- The invariants' hypotheses: a step of a state that meets them, a marker taken. -/
theorem witness_invariants :
    ready.Bounded ∧ ready.Ordered ∧ ready.NothingDue ∧ ready.Settled ∧ ready.LinksSound ∧ ready.WithinRing ∧
    (∃ t, step { ready with pending := [.mark 7] } = .next t ∧ t.ring.tail = 2 ∧ t.segments.length = 2) ∧
    (opening.WithinRing ∧ ∃ t, step opening = .next t ∧ t.ring.tail = 1 ∧ t.slots.length = 1) ∧
    (resetting.ResettingQuiet ∧ resetting.eng.state = .resetting) :=
  ⟨bounded_ready, ordered_ready, ⟨by decide, by decide⟩, settled_ready, (linksSound_inState .active).1, withinRing_ready,
    ⟨_, rfl, rfl, rfl⟩, ⟨withinRing_opening, _, rfl, rfl, rfl⟩, ⟨fun _ => by decide, by decide⟩⟩

/-! ## Corners of the rules -/

/-- R59, R114: a write that OPENING passes to the watch unit and holds is a watched one from then on. -/
theorem test_held_write_is_watched :
    let e : Entry := { req := { tag := 1, kind := .write 0, line := 0x2000, mask := 0xFFFF, watched := false }, wait := .ready }
    (holding (inState .opening) [e]).finish.hold.queue = [{ req := { e.req with watched := true }, wait := .engine }] := by
  decide +kernel

/-- R111, R136, R189: a MEM_ERROR on the closing write raises BROKEN with the state after the response, ahead of CLOSED. -/
theorem test_closing_fault :
    ∃ t, exec (.statusWriteResponse (answer 64 .memError)) (writingStatus (inState .closing) false .inFlight) = .next t ∧
      t.eng.state = .off ∧ t.port.events.map (fun r => (r.kind, r.state, r.seq)) = [(.broken, .off, some 1), (.closed, .off, some 1)] :=
  ⟨_, rfl, by decide +kernel, by decide +kernel⟩

/-- R125: a START that fails leaves the mark timer's counter as it was before it. -/
theorem test_failed_start :
    let s := { inState .opening with timer := { ready.timer with counter := 7, startCounter := 3 } }
    ∃ t, exec (.startControlReadResponse (answer 64 .memError)) (awaiting s .startRead) = .next t ∧ t.eng.state = .off ∧
      t.timer.counter = 3 := ⟨_, rfl, by decide +kernel, by decide +kernel⟩

set_option maxRecDepth 100000 in
/-- R160: with C = 512 the seek at seq 0 passes over a slot that holds a record of seq 768. -/
theorem test_seek : seekAdvance { seq := 0, header := .ok (headerLine (header 768) 7), data := .ok 7 } 5 512 = some 257 := by
  decide +kernel

/-- R163, R165: the RECOVER marker of an empty list is no listed target. -/
theorem test_scan_cause : ({ scanned with storedState := 3, storedTarget := 1, built := [] } : Scan).cause = some .rollbackFault := by
  decide +kernel

/-- R176: a request that is issued in the event in which it arrives leaves upstream ready given. -/
theorem test_issued_at_once :
    ∃ t, exec (.upstreamRequest (request 3 .read 0x100040)) (memReady ready) = .next t ∧ t.upReady = true ∧
      t.down.issued.map (·.tag) = [3] := ⟨_, rfl, by decide +kernel, by decide +kernel⟩

/-- R147: the reads of replay are issued in the event that begins it where memory is ready and no request waits. -/
theorem test_replay_reads_at_once :
    let s := memReady (returned (replayAt (inState .rolling) { replay 0 2 [] with readCursor := 2, begun := false }))
    ∃ t, exec .replayStart s = .next t ∧ t.down.toIssue = [] ∧ t.down.issued.map (·.owner) =
      [.replayHeader 2, .replayData 2, .replayHeader 1, .replayData 1] := ⟨_, rfl, by decide +kernel, by decide +kernel⟩

set_option maxRecDepth 100000 in
/-- R149: the restoring write is issued in the event that settles its seq, and the cursor moves on, where memory is ready and no
request waits; otherwise the write waits and the cursor stays. -/
theorem test_restoring_write_at_once :
    let p := replay 0 3 [{ place with header := .ok (headerLine (header 3) 0) }]
    let s := awaiting (replayAt (inState .rolling) p) (.replayData 3)
    (∃ t, exec (.replayReadResponse (answer 64 .ok)) (memReady s) = .next t ∧ t.down.toIssue = [] ∧
      t.down.issued.map (·.owner) = [.restore 3] ∧ t.replay.map (·.cursor) = some 2) ∧
    (∃ t, exec (.replayReadResponse (answer 64 .ok)) s = .next t ∧ t.down.issued = [] ∧
      t.down.toIssue.map (·.owner) = [.restore 3] ∧ t.replay.map (·.cursor) = some 3) :=
  ⟨⟨_, rfl, by decide +kernel, by decide +kernel, by decide +kernel⟩, _, rfl, by decide +kernel, by decide +kernel, by decide +kernel⟩

/-- Requests are issued at once in states that a statement's other hypotheses are met in, and not in others. -/
theorem witness_issuesAtOnce :
    (∀ s : State, s.down.toIssue = [] → (memReady s).issuesAtOnce = true) ∧
    (∀ s ∈ [ready, awaiting (oneSlot .active (writing 1)) (.recordData 1), awaiting (oneSlot .quiescing (slot 1)) (.oldData 1),
        awaiting (replayAt (inState .rolling) (replay 0 3 [place])) (.replayHeader 3)],
      s.down.toIssue = [] ∧ s.issuesAtOnce = false ∧ recordEntries (fun _ => true) s.hold.queue = []) :=
  ⟨fun s h => by simp [State.issuesAtOnce, memReady, h], by decide +kernel⟩

/-- R17, R29, R36: a TIMER marker that brings occupancy to the high-water threshold, 192 of 256, raises RING_HIGH, and takes a slot. -/
theorem test_timer_marker :
    let s := { ready with ring := { ready.ring with tail := 191 }, timer := { ready.timer with enabled := true, markCount := 7 } }
    ∃ t, exec .markTimerExpiry s = .next t ∧ t.timer.markCount = 8 ∧ t.port.events.map (fun r => (r.kind, r.detail)) = [(.ringHigh, some 192)] ∧
      t.slots.map (fun j => (j.header.source, j.header.tag, j.header.seq)) = [(.timer, 7, 191)] :=
  ⟨_, rfl, by decide +kernel, by decide +kernel, by decide +kernel⟩

/-- R182: READ_STATUS is 0x02, most significant bit first; seven bits take nothing yet. -/
theorem test_sdi_bits :
    sdiCommand [false, false, false, false, false, false, true, false] = some .readStatus ∧
    sdiCommand [false, false, false, false, false, false, true] = none := by decide

/-- R182, R194: SDO before a command is taken, with SEL high and with RSTN low. -/
theorem test_sdo : ready.sdo false 3 = some false ∧ ready.sdo true 3 = none ∧ ({ ready with rstn := false } : State).sdo false 3 = none := by
  decide

/-- R146: the replay unit is idle in RESETTING. -/
theorem test_soft_reset_idles_replay :
    ∃ t, exec .softReset (awaiting (replayAt (inState .rolling) (replay 0 3 [])) .status) = .next t ∧ t.eng.state = .resetting ∧
      t.replay = none := ⟨_, rfl, by decide, by decide⟩

/-- R151: a read behind the write whose issue ends quiescing is decided in ROLLING, which holds it. -/
theorem test_read_behind_the_last_slot :
    let s := { oneSlot .quiescing { slot 0 with held := some 3 } with eng := { (inState .quiescing).eng with action := some (.rollback 0) } }
    let r : Entry := { req := { tag := 4, kind := .read, line := 0x100040, mask := 1, watched := false }, wait := .line }
    ∃ t, exec (.downstreamIssue ⟨0, true⟩) (handing (holding s [entry 3 0x100040 .issue, r]) [issued 3 .forward]) = .next t ∧
      t.eng.state = .rolling ∧ t.hold.queue = [{ r with wait := .engine }] := ⟨_, rfl, by decide +kernel, by decide +kernel⟩

/-- R119, R177: a status write and a forwarded write of the control-block line, handed in one event, go in either order. -/
theorem test_status_before_forward :
    (handing ready [issued 3 .forward, issued 64 .status]).down.picked 1 = some (issued 64 .status) := by decide +kernel

end Sys2Proof.Tests
end

section
/-! SUPPORT. The commands that are taken in OFF alone, and the range checks of SET_LAYOUT. -/

namespace Sys2Proof

/-! ## The arguments of SET_LAYOUT -/

/-- Every argument is in the range that the table of R19 gives it. -/
def LayoutArgs.InRange (a : LayoutArgs) : Prop :=
  a.ringBase.toNat % 4096 = 0 ∧ a.ringBase.toNat + 128 * 2 ^ a.order.toNat ≤ 2 ^ 40 ∧
    8 ≤ a.order.toNat ∧ a.order.toNat ≤ 20 ∧ a.controlLine.toNat % 64 = 0 ∧ a.policy.toNat ≤ 2 ∧
    1 ≤ a.stallLimit.toNat ∧ 1 ≤ a.stride.toNat ∧ 1 ≤ a.highWater.toNat ∧ a.highWater.toNat ≤ 8

/-- The settings that the arguments spell (R186). -/
def LayoutArgs.layout (a : LayoutArgs) : Machine.Layout where
  ringBase := a.ringBase
  order := a.order.toNat
  controlLine := a.controlLine
  policy := if a.policy = 0 then .stall else if a.policy = 1 then .refuse else .breakJournal
  stallLimit := a.stallLimit.toNat
  stride := a.stride.toNat
  highWater := a.highWater.toNat

end Sys2Proof

namespace Sys2Proof.Machine

/-! ## Taking a command in OFF alone -/

/-- A reply in the event of taking is the whole effect of a command that changes nothing else (R182, R184). -/
theorem nextEvent_reply (s : State) (res : MgmtResult) (data : List Byte) : s.nextEvent.reply res data = s.answered res data := rfl

theorem unlessResetting_of_resetting {s : State} (h : s.eng.state = .resetting) (n : Nat) (t : State) :
    s.unlessResetting n t = s.reply .busy (zeros n) := if_pos h

theorem unlessResetting_of_ne {s : State} (h : s.eng.state ≠ .resetting) (n : Nat) (t : State) : s.unlessResetting n t = t := if_neg h

section
variable {s : State} (f : State → State)

theorem running_inOff_of_resetting (hr : s.rstn = true) (h : s.eng.state = .resetting) :
    s.running (fun t => t.inOff (f t)) = .next (s.answered .busy []) := by
  rw [running_of_high hr, State.inOff, unlessResetting_of_resetting (by simpa using h), nextEvent_reply]; rfl

theorem running_inOff_of_badState (hr : s.rstn = true) (hoff : s.eng.state ≠ .off) (h : s.eng.state ≠ .resetting) :
    s.running (fun t => t.inOff (f t)) = .next (s.answered .badState []) := by
  rw [running_of_high hr, State.inOff, unlessResetting_of_ne (by simpa using h), if_neg (by simpa using hoff), nextEvent_reply]

theorem running_inOff_of_off (hr : s.rstn = true) (h : s.eng.state = .off) :
    s.running (fun t => t.inOff (f t)) = .next (f s.nextEvent) := by
  rw [running_of_high hr, State.inOff, unlessResetting_of_ne (by simp [h]), if_pos (by simpa using h)]

end

/-! ## The policy code -/

theorem policyOfCode_of_gt {n : Nat} (h : 2 < n) : policyOfCode n = none := by
  unfold policyOfCode
  split
  case h_4 => rfl
  all_goals omega

theorem policyOfCode_of_le {c : Byte} (h : c.toNat ≤ 2) :
    policyOfCode c.toNat = some (if c = 0 then .stall else if c = 1 then .refuse else .breakJournal) := by
  have hc : c = 0 ∨ c = 1 ∨ c = 2 := by bv_omega
  rcases hc with rfl | rfl | rfl <;> rfl

/-! ## The range checks -/

theorem layoutOf_of_inRange {a : LayoutArgs} (h : a.InRange) : layoutOf a = some a.layout := by
  obtain ⟨hbase, hend, hmin, hmax, hline, hpolicy, hstall, hstride, hhigh⟩ := h
  have hstall' : a.stallLimit ≠ 0 := by bv_omega
  have hstride' : a.stride ≠ 0 := by bv_omega
  simp only [layoutOf, policyOfCode_of_le hpolicy]
  exact if_pos ⟨hbase, hmin, hmax, hend, hline, hstall', hstride', hhigh⟩

theorem layoutOf_of_not_inRange {a : LayoutArgs} (h : ¬ a.InRange) : layoutOf a = none := by
  by_cases hpolicy : a.policy.toNat ≤ 2
  · simp only [layoutOf, policyOfCode_of_le hpolicy]
    refine if_neg fun ⟨hbase, hmin, hmax, hend, hline, hstall, hstride, hhigh⟩ => h ?_
    exact ⟨hbase, hend, hmin, hmax, hline, hpolicy, by bv_omega, by bv_omega, hhigh⟩
  · simp only [layoutOf, policyOfCode_of_gt (Nat.lt_of_not_le hpolicy)]

/-! ## SET_LAYOUT in OFF -/

theorem execSetLayout_of_inRange {a : LayoutArgs} {s : State} (hr : s.rstn = true) (hoff : s.eng.state = .off) (h : a.InRange) :
    execSetLayout a s = .next (State.answered { s with layout := a.layout, ring := { s.ring with highArmed := true } } .accepted []) := by
  rw [execSetLayout, running_inOff_of_off _ hr hoff, layoutOf_of_inRange h]; rfl

theorem execSetLayout_of_not_inRange {a : LayoutArgs} {s : State} (hr : s.rstn = true) (hoff : s.eng.state = .off) (h : ¬ a.InRange) :
    execSetLayout a s = .next (s.answered .badArg []) := by
  rw [execSetLayout, running_inOff_of_off _ hr hoff, layoutOf_of_not_inRange h]; rfl

theorem exec_setLayout (a : LayoutArgs) (s : State) : exec (.setLayout a) s = execSetLayout a s := rfl

/-- Settles O14, through the range checks of R19 as `LayoutArgs.InRange`. -/
theorem setLayout : Obligations.SetLayout := by
  intro a s hr
  simp only [exec_setLayout]
  exact ⟨running_inOff_of_resetting _ hr, running_inOff_of_badState _ hr, execSetLayout_of_not_inRange hr,
    execSetLayout_of_inRange hr, rfl⟩

end Sys2Proof.Machine
end

section
/-! SUPPORT. The commands answered BUSY in RESETTING alone, and READ_ID and READ_REGION. -/

namespace Sys2Proof

/-! ## The bytes of a field -/

/-- The lowest byte of what is left of a word above its first k bits is the byte of the word at bit k. -/
theorem ofNat_div_eq_extractLsb' {w : Nat} (x : BitVec w) (k : Nat) : BitVec.ofNat 8 (x.toNat / 2 ^ k) = x.extractLsb' k 8 := by
  rw [BitVec.extractLsb', Nat.shiftRight_eq_div_pow]

/-- The five bytes of a 40-bit address, lowest first (R186). -/
theorem toBytes_addr (x : Addr) :
    toBytes 5 x.toNat =
      [x.extractLsb' 0 8, x.extractLsb' 8 8, x.extractLsb' 16 8, x.extractLsb' 24 8, x.extractLsb' 32 8] := by
  simp only [toBytes, ← ofNat_div_eq_extractLsb', Nat.div_div_eq_div_mul, Nat.reduceMul, Nat.reducePow, Nat.div_one]

end Sys2Proof

namespace Sys2Proof.Machine

/-! ## Taking a command in every state but RESETTING -/

section
variable {s : State} (n : Nat) (f : State → State)

theorem running_unlessResetting_of_resetting (hr : s.rstn = true) (h : s.eng.state = .resetting) :
    s.running (fun t => t.unlessResetting n (f t)) = .next (s.answered .busy (zeros n)) := by
  rw [running_of_high hr, unlessResetting_of_resetting (by simpa using h), nextEvent_reply]

theorem running_unlessResetting_of_ne (hr : s.rstn = true) (h : s.eng.state ≠ .resetting) :
    s.running (fun t => t.unlessResetting n (f t)) = .next (f s.nextEvent) := by
  rw [running_of_high hr, unlessResetting_of_ne (by simpa using h)]

end

/-! ## READ_ID -/

theorem exec_readId (s : State) : exec .readId s = execReadId s := rfl

theorem idBytes_eq : idBytes = [0x5A, 0x40, 0x26, 0x01] := by decide

theorem execReadId_of_ne {s : State} (hr : s.rstn = true) (h : s.eng.state ≠ .resetting) :
    execReadId s = .next (s.answered .accepted [0x5A, 0x40, 0x26, 0x01]) := by
  rw [execReadId, running_unlessResetting_of_ne _ _ hr h, nextEvent_reply, idBytes_eq]

/-! ## READ_REGION -/

theorem exec_readRegion (i : Byte) (s : State) : exec (.readRegion i) s = execReadRegion i s := rfl

theorem regionBytes_eq (i : Byte) (r : Region) :
    regionBytes i.toNat r =
      [i, if r.enabled then 1 else 0, .ofNat 8 r.mode.code, .ofNat 8 r.order,
        r.base.extractLsb' 0 8, r.base.extractLsb' 8 8, r.base.extractLsb' 16 8, r.base.extractLsb' 24 8,
        r.base.extractLsb' 32 8] := by
  have henabled : BitVec.ofNat 8 r.enabled.toNat = if r.enabled then 1 else 0 := by cases r.enabled <;> rfl
  rw [regionBytes, toBytes_addr]
  simp [toBytes, henabled]

theorem execReadRegion_of_lt {i : Byte} {s : State} (hr : s.rstn = true) (h : s.eng.state ≠ .resetting) (hi : i.toNat < 16) :
    execReadRegion i s = .next (s.answered .accepted (regionBytes i.toNat s.regions[i.toNat])) := by
  have hentry : s.nextEvent.regions.toList[i.toNat]? = some s.regions[i.toNat] := by simp [hi]
  simp only [execReadRegion, running_unlessResetting_of_ne _ _ hr h, hentry, nextEvent_reply]

theorem execReadRegion_of_ge {i : Byte} {s : State} (hr : s.rstn = true) (h : s.eng.state ≠ .resetting) (hi : 16 ≤ i.toNat) :
    execReadRegion i s = .next (s.answered .badArg (zeros 9)) := by
  have hentry : s.nextEvent.regions.toList[i.toNat]? = none := by simp [hi]
  simp only [execReadRegion, running_unlessResetting_of_ne _ _ hr h, hentry, nextEvent_reply]

/-- R194, R51: no entry is enabled after power-on. -/
theorem reset_region (i : Nat) (h : i < 16) :
    State.reset.regions[i] = { enabled := false, base := 0, order := 12, mode := .pass } := Vector.getElem_replicate h

/-- Settles O6, through the bytes of a region's entry. -/
theorem readIdAndRegion : Obligations.ReadIdAndRegion := by
  intro s hr
  simp only [exec_readId, exec_readRegion]
  refine ⟨execReadId_of_ne hr, running_unlessResetting_of_resetting _ _ hr, fun i hi hs => ?entry,
    fun i hi hs => execReadRegion_of_ge hr hs hi, fun i => running_unlessResetting_of_resetting _ _ hr, reset_region⟩
  case entry =>
    rw [execReadRegion_of_lt hr hs hi, regionBytes_eq]
    cases s.regions[i.toNat].mode <;> rfl

end Sys2Proof.Machine
end


section
/-! SUPPORT. What a step can do, said once. Every command but a power-on reset and the configuration commands is a chain of the
moves below, each with the conditions under which the model makes it. An invariant that every move keeps is kept by every step. -/

namespace Sys2Proof.Machine

/-- Nothing is held (R62, R64). -/
def Hold.empty : Hold := { queue := [], waiting := none }

/-- The occupied slots of a soft reset: abandoned, with a request outstanding (R86). -/
def abandonedBusy (l : List Slot) : Prop := ∀ j ∈ l, j.abandoned = true ∧ j.busy = true

/-- A record of [F, T) has a journal slot that is not abandoned (R71). -/
def slotFor (l : List Slot) (q : Nat) : Prop := ∃ j ∈ l, j.header.seq = q ∧ j.abandoned = false

/-- One change of the state, with the conditions under which a command makes it. The first group leaves the engine and the journal
alone, the second changes them. -/
inductive Move : State → State → Prop where
  | event (s : State) : Move s s.nextEvent
  | up (s : State) (u : UpLink) (tags : s.up.tags.Nodup → u.tags.Nodup) : Move s { s with up := u }
  | down (s : State) (d : DownLink)
      (classes : ∀ q ∈ d.toIssue ++ d.issued,
        q ∈ s.down.toIssue ++ s.down.issued ∨ (q.owner = .forward ↔ q.tag.toNat < 64))
      (handed : ∀ q ∈ d.toIssue, q ∈ s.down.toIssue ∨ q.event ≤ s.eventNo) : Move s { s with down := d }
  | port (s : State) (p : Port)
      (events : p.events.length ≤ s.port.events.length ∨ p.events.length ≤ Config.eventPlaces)
      (mask : p.mask = s.port.mask) : Move s { s with port := p }
  | hold (s : State) (h : Hold)
      (room : h.queue.length ≤ s.hold.queue.length ∨ h.queue.length ≤ Config.holdPlaces)
      (quiet : s.eng.state = .resetting → s.hold = Hold.empty → h = Hold.empty) : Move s { s with hold := h }
  | views (s : State) (l : List ViewPlace) (room : l.length ≤ s.views.length ∨ l.length ≤ Config.viewPlaces) :
      Move s { s with views := l }
  | timers (s : State) (m : MarkTimer) (n : Option Nat) : Move s { s with timer := m, stall := n }
  | pin (s : State) (b : Bool) : Move s { s with rstn := b }
  | aborted (s : State) (n : Nat) : Move s { s with aborted := n }
  | touch (s : State) (t : Touch)
      (room : t.entries.length ≤ s.touch.entries.length ∨ t.entries.length ≤ Config.touchPlaces) : Move s { s with touch := t }
  | watch (s : State) (w : Watch)
      (occasion : s.eng.state = .opening → s.ring.tail = 0 ∨ (s.watch.occasion = .idle → w.occasion = .idle)) :
      Move s { s with watch := w }
  | flags (s : State) (armed reported : Bool) :
      Move s { s with ring := { s.ring with highArmed := armed, fullReported := reported } }
  | slots (s : State) (l : List Slot) (room : l.length ≤ s.slots.length)
      (covered : ∀ q, s.ring.frontier ≤ q → q < s.ring.tail → slotFor s.slots q → slotFor l q)
      (quiet : s.eng.state = .resetting → abandonedBusy s.slots → abandonedBusy l) : Move s { s with slots := l }
  | labels (s : State) (e : Epoch) (target : Option Nat) :
      Move s { s with eng := { s.eng with epoch := e, pendingTarget := target } }
  | dropAction (s : State) : Move s { s with eng := { s.eng with action := none } }
  | replayIdle (s : State) : Move s { s with replay := none }
  | scanIdle (s : State) : Move s { s with scan := none }
  | assign (s : State) (j : Slot) (l : List Segment) (active : s.eng.state = .active) (free : s.slotFree = true)
      (space : s.hasSpace = true) (seq : j.header.seq = s.ring.tail) (kept : j.abandoned = false)
      (listed : l = s.segments ∨
        ∃ e : Segment, e.seq = s.ring.tail ∧ s.segments.length < Config.segmentPlaces ∧ l = s.segments ++ [e]) :
      Move s { s with slots := s.slots ++ [j], ring := { s.ring with tail := s.ring.tail + 1 }, segments := l }
  | openRecord (s : State) (j : Slot) (e : Segment) (opening : s.eng.state = .opening)
      (first : s.segments = [] ∨ s.watch.occasion ≠ .idle) (seq : j.header.seq = s.ring.tail) (kept : j.abandoned = false)
      (listed : e.seq = s.ring.tail) :
      Move s { s with
        slots := [j], ring := { s.ring with tail := s.ring.tail + 1 }, segments := [e]
        watch := { s.watch with occasion := .idle } }
  | head (s : State) (h : Nat) (state : s.eng.state ∈ [EngineState.active, .stalled, .broken]) (above : s.ring.head ≤ h)
      (limit : h ≤ s.releaseLimit) :
      Move s { s with ring := { s.ring with head := h }, segments := s.segments.filter fun e => decide (h ≤ e.seq) }
  | frontier (s : State) (f : Nat) (above : s.ring.frontier ≤ f) (below : f ≤ s.ring.tail ∨ f = s.ring.frontier) :
      Move s { s with ring := { s.ring with frontier := f } }
  | broken (s : State) (c : Cause) : Move s ((s.breakJournal c).setEngine .broken)
  | faulted (s : State) (c : Cause) (state : s.eng.state = .quiescing) (action : ∀ m, s.eng.action ≠ some (.rollback m)) :
      Move s (s.breakJournal c)
  | go (s : State) (e : EngineState)
      (source : s.eng.state ∈ [EngineState.active, .stalled, .opening, .rolling, .scanning])
      (aim : e ∈ [EngineState.active, .stalled, .broken]) :
      Move s (s.setEngine e)
  | quiesce (s : State) (a : Action) (state : s.eng.state ∈ [EngineState.active, .stalled, .broken])
      (target : ∀ m, a = .rollback m → s.eng.state ≠ .broken ∧
        (m = s.segmentStart ∨ (m = 0 ∧ s.ring.head = 0) ∨ ∃ e ∈ s.segments, e.seq = m)) :
      Move s { s with eng := { s.eng with state := .quiescing, action := some a } }
  | close (s : State) (state : s.eng.state = .quiescing) :
      Move s { s with eng := { s.eng with state := .closing, action := none } }
  | roll (s : State) (p : Replay) (state : s.eng.state = .quiescing) (action : s.eng.action = some (.rollback p.target))
      (places : p.places = []) :
      Move s { s with eng := { s.eng with state := .rolling, action := none }, replay := some p }
  | replay (s : State) (p k : Replay) (state : s.eng.state = .rolling) (unit : s.replay = some p) (target : k.target = p.target)
      (room : k.places.length ≤ p.places.length ∨ k.places.length ≤ Config.replayPlaces) : Move s { s with replay := some k }
  | cutBack (s : State) (p : Replay) (state : s.eng.state = .rolling) (unit : s.replay = some p) :
      Move s { s with
        ring := { s.ring with frontier := p.target + 1, tail := p.target + 1 }
        segments := s.segments.filter fun e => decide (e.seq ≤ p.target) }
  | zero (s : State) (e : Engine) (r : Ring) (w : Watch) (state : e.state = .off ∨ e.state = .opening)
      (cause : e.cause = none ∨ (s.eng.state = .opening ∧ e.cause = s.eng.cause))
      (head : r.head = 0) (frontier : r.frontier = 0) (tail : r.tail = 0) :
      Move s { s with eng := e, ring := r, segments := [], watch := w }
  | start (s : State) (e : Engine) (off : s.eng.state = .off) (state : e.state = .opening) (cause : e.cause = s.eng.cause) :
      Move s { s with eng := e }
  | recover (s : State) (e : Engine) (c : Scan) (off : s.eng.state = .off) (state : e.state = .scanning)
      (cause : e.cause = s.eng.cause) (bounded : c.Bounded) (ordered : c.Ordered)
      (within : ∀ n, 0 < n → c.WithinRing n) : Move s { s with eng := e, scan := some c }
  | beginScan (s : State) (k : Scan) (state : s.eng.state = .scanning) (bounded : k.Bounded) (ordered : k.Ordered)
      (within : ∀ n, 0 < n → k.WithinRing n) : Move s { s with scan := some k }
  | scan (s : State) (c k : Scan) (state : s.eng.state = .scanning) (unit : s.scan = some c) (bounded : c.Bounded → k.Bounded)
      (ordered : c.Ordered → k.Ordered)
      (within : c.Ordered → c.WithinRing s.layout.capacity → k.WithinRing s.layout.capacity) : Move s { s with scan := some k }
  | install (s : State) (c : Scan) (state : s.eng.state = .scanning) (unit : s.scan = some c) (built : c.built ≠ []) (head : Nat)
      (clamped : head = c.startSeq ∨ ∃ e ∈ c.built, head = e.seq ∧ e.seq ≤ c.startSeq) :
      Move s { s with
        ring := { s.ring with head := head, frontier := c.cursor, tail := c.cursor }, segments := c.built, touch := c.table
        scan := none }
  | installMark (s : State) (c : Scan) (j : Slot) (e : Segment) (state : s.eng.state = .scanning) (unit : s.scan = some c)
      (space : c.cursor - c.startSeq < s.layout.capacity) (seq : j.header.seq = c.cursor) (kept : j.abandoned = false)
      (listed : e.seq = c.cursor) (head : Nat) (clamped : head = min c.startSeq c.cursor) :
      Move s { s with
        ring := { s.ring with head := head, frontier := c.cursor, tail := c.cursor + 1 }, segments := [e]
        slots := [j], scan := none }
  | softReset (s : State) :
      Move s { s with
        eng := { s.eng with state := .resetting }, hold := Hold.empty, slots := abandonSlots s.slots, replay := none
        scan := none }

/-- A chain of moves. -/
abbrev Moves : State → State → Prop := Relation.ReflTransGen Move

theorem Move.moves {s t : State} (h : Move s t) : Moves s t := .single h

theorem Moves.refl (s : State) : Moves s s := Relation.ReflTransGen.refl

/-- What every move keeps, a chain of moves keeps. -/
theorem Moves.keeps {P : State → Prop} (h : ∀ s t, Move s t → P s → P t) {s t : State} (m : Moves s t) (hs : P s) : P t := by
  induction m with
  | refl => exact hs
  | tail _ hm ih => exact h _ _ hm ih

end Sys2Proof.Machine
end


section
/-! SUPPORT. The invariants of the step lemmas, each kept by every move. -/

namespace Sys2Proof.Machine

/-! ## Capacities -/

theorem Move.keeps_bounded {s t : State} (m : Move s t) (h : s.Bounded) : t.Bounded := by
  obtain ⟨hhold, hslots, hsegments, htouch, hviews, hevents, hreplay, hscan⟩ := h
  cases m with
  | port p events _ => exact ⟨hhold, hslots, hsegments, htouch, hviews, by dsimp only; omega, hreplay, hscan⟩
  | hold q room _ => exact ⟨by dsimp only; omega, hslots, hsegments, htouch, hviews, hevents, hreplay, hscan⟩
  | views l room => exact ⟨hhold, hslots, hsegments, htouch, by dsimp only; omega, hevents, hreplay, hscan⟩
  | touch x room => exact ⟨hhold, hslots, hsegments, by dsimp only; omega, hviews, hevents, hreplay, hscan⟩
  | slots l room _ _ => exact ⟨hhold, by dsimp only; omega, hsegments, htouch, hviews, hevents, hreplay, hscan⟩
  | replayIdle => exact ⟨hhold, hslots, hsegments, htouch, hviews, hevents, by simp, hscan⟩
  | scanIdle => exact ⟨hhold, hslots, hsegments, htouch, hviews, hevents, hreplay, by simp⟩
  | assign j l _ free _ _ _ listed =>
    refine ⟨hhold, ?_, ?_, htouch, hviews, hevents, hreplay, hscan⟩
    · simp [State.slotFree] at free; simp; omega
    · rcases listed with rfl | ⟨e, _, room, rfl⟩
      · exact hsegments
      · simp; omega
  | openRecord j e _ _ _ _ _ =>
    exact ⟨hhold, by simp [Config.journalSlots], by simp [Config.segmentPlaces], htouch, hviews, hevents, hreplay, hscan⟩
  | head q _ _ _ =>
    exact ⟨hhold, hslots, Nat.le_trans (List.length_filter_le ..) hsegments, htouch, hviews, hevents, hreplay, hscan⟩
  | broken c =>
    exact ⟨hhold, Nat.le_trans (abandonSlots_length_le _) hslots, hsegments, Nat.zero_le _, hviews, hevents, hreplay, hscan⟩
  | faulted c _ _ =>
    exact ⟨hhold, Nat.le_trans (abandonSlots_length_le _) hslots, hsegments, Nat.zero_le _, hviews, hevents, hreplay, hscan⟩
  | roll p _ _ places =>
    refine ⟨hhold, hslots, hsegments, htouch, hviews, hevents, fun k hk => ?_, hscan⟩
    cases hk; simp [places]
  | replay p k _ unit _ room =>
    refine ⟨hhold, hslots, hsegments, htouch, hviews, hevents, fun k' hk => ?_, hscan⟩
    cases hk; have := hreplay p unit; omega
  | cutBack p _ _ =>
    exact ⟨hhold, hslots, Nat.le_trans (List.length_filter_le ..) hsegments, htouch, hviews, hevents, hreplay, hscan⟩
  | zero e r w _ _ _ _ _ => exact ⟨hhold, hslots, Nat.zero_le _, htouch, hviews, hevents, hreplay, hscan⟩
  | recover e c _ _ _ bounded _ _ =>
    exact ⟨hhold, hslots, hsegments, htouch, hviews, hevents, hreplay, fun k hk => by cases hk; exact bounded⟩
  | beginScan k _ bounded _ _ =>
    exact ⟨hhold, hslots, hsegments, htouch, hviews, hevents, hreplay, fun k' hk => by cases hk; exact bounded⟩
  | scan c k _ unit bounded _ _ =>
    exact ⟨hhold, hslots, hsegments, htouch, hviews, hevents, hreplay, fun k' hk => by cases hk; exact bounded (hscan c unit)⟩
  | install c _ unit _ _ _ =>
    exact ⟨hhold, hslots, (hscan c unit).built, (hscan c unit).table, hviews, hevents, hreplay, by simp⟩
  | installMark c j e _ _ _ _ _ _ _ =>
    exact ⟨hhold, by simp [Config.journalSlots], by simp [Config.segmentPlaces], htouch, hviews, hevents, hreplay, by simp⟩
  | softReset =>
    exact ⟨Nat.zero_le _, Nat.le_trans (abandonSlots_length_le _) hslots, hsegments, htouch, hviews, hevents, by simp, by simp⟩
  | event | up | down | timers | pin | aborted | watch | flags | labels | dropAction | frontier | go | quiesce | close | start =>
    exact ⟨hhold, hslots, hsegments, htouch, hviews, hevents, hreplay, hscan⟩

/-! ## The tag laws -/

theorem Move.keeps_linksSound {s t : State} (m : Move s t) (h : s.LinksSound) : t.LinksSound := by
  obtain ⟨htags, hclasses, hhanded⟩ := h
  cases m with
  | event => exact ⟨htags, hclasses, fun q hq => Nat.le_succ_of_le (hhanded q hq)⟩
  | up u tags => exact ⟨tags htags, hclasses, hhanded⟩
  | down d classes handed =>
    exact ⟨htags, fun q hq => (classes q hq).elim (hclasses q) id, fun q hq => (handed q hq).elim (hhanded q) id⟩
  | _ => exact ⟨htags, hclasses, hhanded⟩

/-! ## The order of the indices -/

/-- L is the seq of a listed entry, or 0 where none is listed (R23). -/
theorem segmentStart_mem (s : State) : (s.segments = [] ∧ s.segmentStart = 0) ∨ ∃ e ∈ s.segments, e.seq = s.segmentStart := by
  unfold State.segmentStart
  cases h : s.segments.getLast? with
  | none => exact .inl ⟨List.getLast?_eq_none_iff.mp h, rfl⟩
  | some e => exact .inr ⟨e, List.mem_of_getLast? h, rfl⟩

/-- H does not exceed L where it exceeds no listed seq, and is 0 where none is listed. -/
theorem le_segmentStart {s : State} (listed : ∀ e ∈ s.segments, s.ring.head ≤ e.seq) (h : s.segments = [] → s.ring.head = 0) :
    s.ring.head ≤ s.segmentStart := by
  rcases segmentStart_mem s with ⟨hn, hz⟩ | ⟨e, he, hs⟩
  · rw [hz, h hn]
  · rw [← hs]; exact listed e he

theorem head_eq_zero {s : State} (h : s.Ordered) (hn : s.segments = []) : s.ring.head = 0 := by
  have := h.start
  rcases segmentStart_mem s with ⟨_, hz⟩ | ⟨e, he, _⟩
  · omega
  · simp [hn] at he

theorem Move.keeps_ordered {s t : State} (m : Move s t) (h : s.Ordered) : t.Ordered := by
  have hzero := fun hn => head_eq_zero h hn
  obtain ⟨hhf, hft, hlisted, hstart, haction, hrolling, hscan⟩ := h
  cases m with
  | dropAction => exact ⟨hhf, hft, hlisted, hstart, by simp, hrolling, hscan⟩
  | replayIdle => exact ⟨hhf, hft, hlisted, hstart, haction, by simp, hscan⟩
  | scanIdle => exact ⟨hhf, hft, hlisted, hstart, haction, hrolling, by simp⟩
  | assign j l active _ _ _ _ listed =>
    have hl : ∀ x ∈ l, s.ring.head ≤ x.seq := by
      rcases listed with rfl | ⟨e, he, _, rfl⟩
      · exact hlisted
      · intro x hx
        rcases List.mem_append.mp hx with hx | hx
        · exact hlisted x hx
        · rw [List.mem_singleton.mp hx, he]; omega
    have hn : l = [] → s.ring.head = 0 := by
      rcases listed with rfl | ⟨e, _, _, rfl⟩
      · exact hzero
      · simp
    exact ⟨hhf, Nat.le_succ_of_le hft, hl, le_segmentStart hl hn, by simp [active], by simp [active], hscan⟩
  | openRecord j e opening _ _ _ listed =>
    have hl : ∀ x ∈ [e], s.ring.head ≤ x.seq := by
      intro x hx; rw [List.mem_singleton.mp hx, listed]; omega
    exact ⟨hhf, Nat.le_succ_of_le hft, hl, le_segmentStart hl (by simp), by simp [opening], by simp [opening], hscan⟩
  | head q state above limit =>
    have hq : q ≤ s.segmentStart ∧ q ≤ s.ring.frontier := by simpa [State.releaseLimit] using limit
    have hl : ∀ x ∈ s.segments.filter fun e => decide (q ≤ e.seq), q ≤ x.seq := by
      intro x hx; simpa using (List.mem_filter.mp hx).2
    refine ⟨hq.2, hft, hl, le_segmentStart hl fun hn => ?_, ?_, ?_, hscan⟩
    · rcases segmentStart_mem s with ⟨_, hz⟩ | ⟨e, he, hs⟩
      · exact Nat.le_zero.mp (hz ▸ hq.1)
      · have : e ∈ s.segments.filter fun e => decide (q ≤ e.seq) := List.mem_filter.mpr ⟨he, by simp [hs, hq.1]⟩
        rw [show s.segments.filter (fun e => decide (q ≤ e.seq)) = [] from hn] at this
        cases this
    all_goals intro hst; simp only at hst; simp [hst] at state
  | frontier f above below => exact ⟨Nat.le_trans hhf above, by dsimp only; omega, hlisted, hstart, haction, hrolling, hscan⟩
  | broken c => exact ⟨hhf, hft, hlisted, hstart, by simp [State.setEngine], by simp [State.setEngine], hscan⟩
  | go e _ aim =>
    refine ⟨hhf, hft, hlisted, hstart, ?_, ?_, hscan⟩ <;>
      (intro hst; simp only [State.setEngine] at hst; simp [hst] at aim)
  | quiesce a state target =>
    refine ⟨hhf, hft, hlisted, hstart, fun _ m hm => ?_, by simp, hscan⟩
    have ha : a = .rollback m := by simpa using hm
    rcases (target m ha).2 with rfl | ⟨rfl, hz⟩ | ⟨e, he, rfl⟩
    · refine ⟨hstart, ?_⟩
      rcases segmentStart_mem s with ⟨hn, _⟩ | he
      · exact .inl (hzero hn)
      · exact .inr he
    · exact ⟨by dsimp only; omega, .inl hz⟩
    · exact ⟨hlisted e he, .inr ⟨e, he, rfl⟩⟩
  | close => exact ⟨hhf, hft, hlisted, hstart, by simp, by simp, hscan⟩
  | roll p state action _ =>
    exact ⟨hhf, hft, hlisted, hstart, by simp, fun _ k hk => by cases hk; exact haction state _ action, hscan⟩
  | replay p k state unit target _ =>
    refine ⟨hhf, hft, hlisted, hstart, haction, fun _ k' hk => ?_, hscan⟩
    cases hk; rw [target]; exact hrolling state p unit
  | cutBack p state unit =>
    obtain ⟨hle, hin⟩ := hrolling state p unit
    have hl : ∀ x ∈ s.segments.filter fun e => decide (e.seq ≤ p.target), s.ring.head ≤ x.seq := by
      intro x hx; exact hlisted x (List.mem_filter.mp hx).1
    have hnone : s.segments.filter (fun e => decide (e.seq ≤ p.target)) = [] → s.ring.head = 0 := by
      intro hn
      rcases hin with hz | ⟨e, he, hs⟩
      · exact hz
      · have : e ∈ s.segments.filter fun e => decide (e.seq ≤ p.target) := List.mem_filter.mpr ⟨he, by simp [hs]⟩
        rw [hn] at this; cases this
    refine ⟨Nat.le_succ_of_le hle, Nat.le_refl _, hl, le_segmentStart hl hnone, by simp [state], fun _ k hk => ?_, hscan⟩
    have : k = p := by simpa [unit] using hk.symm
    subst this
    refine ⟨hle, hin.imp id ?_⟩
    rintro ⟨e, he, hs⟩
    exact ⟨e, List.mem_filter.mpr ⟨he, by simp [hs]⟩, hs⟩
  | zero e r w state _ head frontier tail =>
    refine ⟨by dsimp only; omega, by dsimp only; omega, by simp, by simp [head], ?_, ?_, hscan⟩ <;>
      (intro hst; simp only at hst; simp [hst] at state)
  | start e _ state _ => exact ⟨hhf, hft, hlisted, hstart, by simp [state], by simp [state], hscan⟩
  | recover e c _ state _ _ ordered _ =>
    exact ⟨hhf, hft, hlisted, hstart, by simp [state], by simp [state], fun k hk => by cases hk; exact ordered⟩
  | beginScan k _ _ ordered _ =>
    exact ⟨hhf, hft, hlisted, hstart, haction, hrolling, fun k' hk => by cases hk; exact ordered⟩
  | scan c k _ unit _ ordered _ =>
    exact ⟨hhf, hft, hlisted, hstart, haction, hrolling, fun k' hk => by cases hk; exact ordered (hscan c unit)⟩
  | install c state unit built head clamped =>
    obtain ⟨hc, hb, _⟩ := hscan c unit
    have hle : head ≤ c.startSeq := by
      rcases clamped with rfl | ⟨e, _, rfl, h⟩ <;> omega
    have hl : ∀ x ∈ c.built, head ≤ x.seq := fun x hx => Nat.le_trans hle (hb x hx)
    exact ⟨Nat.le_trans hle hc, Nat.le_refl _, hl, le_segmentStart hl fun hn => absurd hn built, by simp [state], by simp [state],
      by simp⟩
  | installMark c j e state unit _ _ _ listed head clamped =>
    have hl : ∀ x ∈ [e], head ≤ x.seq := by
      intro x hx; rw [List.mem_singleton.mp hx, listed]; omega
    exact ⟨by dsimp only; omega, Nat.le_succ _, hl, le_segmentStart hl (by simp), by simp [state], by simp [state], by simp⟩
  | softReset => exact ⟨hhf, hft, hlisted, hstart, by simp, by simp, by simp⟩
  | event | up | down | port | hold | views | timers | pin | aborted | touch | watch | flags | slots | labels | faulted =>
    exact ⟨hhf, hft, hlisted, hstart, haction, hrolling, hscan⟩

/-! ## While RESETTING -/

theorem abandonSlots_abandonedBusy (l : List Slot) : abandonedBusy (abandonSlots l) := by
  intro j hj
  simp only [abandonSlots, List.mem_map, List.mem_filter] at hj
  obtain ⟨k, ⟨_, hb⟩, rfl⟩ := hj
  exact ⟨rfl, hb⟩

theorem Move.keeps_resettingQuiet {s t : State} (m : Move s t) (h : s.ResettingQuiet) : t.ResettingQuiet := by
  intro hr
  cases m with
  | hold q _ quiet =>
    obtain ⟨hh, hp, hc, hs⟩ := h hr
    exact ⟨quiet hr hh, hp, hc, hs⟩
  | slots l _ _ quiet =>
    obtain ⟨hh, hp, hc, hs⟩ := h hr
    exact ⟨hh, hp, hc, quiet hr hs⟩
  | replayIdle => obtain ⟨hh, hp, hc, hs⟩ := h hr; exact ⟨hh, rfl, hc, hs⟩
  | scanIdle => obtain ⟨hh, hp, hc, hs⟩ := h hr; exact ⟨hh, hp, rfl, hs⟩
  | softReset => exact ⟨rfl, rfl, rfl, abandonSlots_abandonedBusy _⟩
  | assign j l active _ _ _ _ _ => simp [active] at hr
  | openRecord j e opening _ _ _ _ => simp [opening] at hr
  | broken c => simp [State.setEngine] at hr
  | faulted c state _ => simp [State.breakJournal, state] at hr
  | go e _ aim => simp only [State.setEngine] at hr; simp [hr] at aim
  | quiesce | close | roll => simp at hr
  | replay p k state _ _ _ => simp [state] at hr
  | zero e r w state _ _ _ _ => simp only at hr; simp [hr] at state
  | start e _ state _ => simp [state] at hr
  | recover e c _ state _ _ _ _ => simp [state] at hr
  | beginScan k state _ _ _ => simp [state] at hr
  | scan c k state _ _ _ _ => simp [state] at hr
  | install c state _ _ _ _ => simp [state] at hr
  | installMark c j e state _ _ _ _ _ _ _ => simp [state] at hr
  | event | up | down | port | views | timers | pin | aborted | touch | watch | flags | labels | dropAction | head
  | frontier | cutBack => exact h hr

end Sys2Proof.Machine
end


section
/-! SUPPORT. The distances of the indices: T - H ≤ C and T - F ≤ 8, kept by every move (R9, R71). -/

namespace Sys2Proof.Machine

theorem capacity_pos (l : Layout) : 0 < l.capacity := Nat.two_pow_pos _

/-- Records with a slot each are no more than the slots (R71). -/
theorem inFlight_le_slots {l : List Slot} {f t : Nat} (h : ∀ q, f ≤ q → q < t → slotFor l q) : t - f ≤ l.length := by
  have hsub : List.range' f (t - f) ⊆ l.map fun j => j.header.seq := by
    intro q hq
    obtain ⟨h1, h2⟩ := List.mem_range'_1.mp hq
    obtain ⟨j, hj, hs, _⟩ := h q h1 (by omega)
    exact List.mem_map.mpr ⟨j, hj, hs⟩
  simpa using (List.Nodup.subperm (List.nodup_range' ..) hsub).length_le

theorem slotFor_append {l m : List Slot} {q : Nat} (h : slotFor l q) : slotFor (l ++ m) q := by
  obtain ⟨j, hj, hs⟩ := h
  exact ⟨j, List.mem_append_left _ hj, hs⟩

theorem slotFor_singleton {j : Slot} {q : Nat} (hs : j.header.seq = q) (hk : j.abandoned = false) : slotFor [j] q :=
  ⟨j, List.mem_singleton.mpr rfl, hs, hk⟩

/-- A record of [F, T) has its slot while the engine goes on without a cause. -/
theorem State.WithinRing.slotFor {s : State} (h : s.WithinRing) (hc : s.eng.cause = none) (hr : s.eng.state ≠ .resetting) (q : Nat)
    (h1 : s.ring.frontier ≤ q) (h2 : q < s.ring.tail) : slotFor s.slots q := h.covered hc hr q h1 h2

theorem WithinRing.cause_none {s : State} (h : s.WithinRing)
    (hs : s.eng.state ∈ [EngineState.active, .stalled, .rolling, .scanning, .off, .opening]) : s.eng.cause = none :=
  h.sound (.inl hs)

theorem sound_of_source {e : EngineState} (h : e ∈ [EngineState.active, .stalled, .opening, .rolling, .scanning]) :
    e ∈ [EngineState.active, .stalled, .rolling, .scanning, .off, .opening] := by
  cases e <;> simp at h ⊢

theorem sound_of_journaling {e : EngineState} (h : e ∈ [EngineState.active, .stalled, .broken]) (hb : e ≠ .broken) :
    e ∈ [EngineState.active, .stalled, .rolling, .scanning, .off, .opening] := by
  cases e <;> simp at h hb ⊢

theorem Move.keeps_withinRing {s t : State} (m : Move s t) (ho : s.Ordered) (hb : s.Bounded) (h : s.WithinRing) : t.WithinRing := by
  have hcause := fun hs => WithinRing.cause_none h hs
  have hslot := h.slotFor
  have hslots := hb.slots
  obtain ⟨hheld, hflight, hcovered, hsound, hlisted, haction, hrolling, hscan, hoff, hopening⟩ := h
  have hcap := capacity_pos s.layout
  cases m with
  | watch w occasion =>
    refine ⟨hheld, hflight, hcovered, hsound, hlisted, haction, hrolling, hscan, hoff, fun hst => ?_⟩
    obtain ⟨hz, ht, hn⟩ := hopening hst
    refine ⟨hz, ht, ?_⟩
    rintro (hl | hw)
    · exact hn (.inl hl)
    · rcases occasion hst with h0 | hw'
      · exact h0
      · exact hn (.inr fun hi => hw (hw' hi))
  | slots l _ covered _ =>
    exact ⟨hheld, hflight, fun hc hr q h1 h2 => covered q h1 h2 (hcovered hc hr q h1 h2), hsound, hlisted, haction, hrolling, hscan,
      hoff, hopening⟩
  | dropAction =>
    exact ⟨hheld, hflight, hcovered, fun hs => hsound (hs.imp id (by simp)), hlisted, by simp, hrolling, hscan, hoff, hopening⟩
  | replayIdle => exact ⟨hheld, hflight, hcovered, hsound, hlisted, haction, by simp, hscan, hoff, hopening⟩
  | scanIdle => exact ⟨hheld, hflight, hcovered, hsound, hlisted, haction, hrolling, by simp, hoff, hopening⟩
  | assign j l active free space seq kept listed =>
    have hc := hcause (by simp [active])
    have hfree : s.slots.length < 8 := of_decide_eq_true free
    have hspace : s.ring.tail - s.ring.head < s.layout.capacity := of_decide_eq_true space
    have hle := inFlight_le_slots (hslot hc (by simp [active]))
    refine ⟨by dsimp only; omega, by simp only [Config.journalSlots]; omega, fun _ _ q h1 h2 => ?_, fun _ => hc, ?_, by simp [active],
      by simp [active], by simp [active], by simp [active], by simp [active]⟩
    · rcases Nat.lt_succ_iff_lt_or_eq.mp h2 with h2 | rfl
      · exact slotFor_append (hslot hc (by simp [active]) q h1 h2)
      · exact ⟨j, by simp, seq, kept⟩
    · rcases listed with rfl | ⟨e, hs, _, rfl⟩
      · exact fun e he => Nat.lt_succ_of_lt (hlisted e he)
      · intro x hx
        rcases List.mem_append.mp hx with hx | hx
        · exact Nat.lt_succ_of_lt (hlisted x hx)
        · rw [List.mem_singleton.mp hx, hs]; exact Nat.lt_succ_self _
  | openRecord j e opening first seq kept listed =>
    obtain ⟨hz, _, hn⟩ := hopening opening
    have ht := hn first
    have hf : s.ring.frontier = 0 := by have := ho.frontierTail; omega
    refine ⟨by dsimp only; omega, by simp only [Config.journalSlots]; omega, fun _ _ q h1 h2 => ?_,
      fun _ => hcause (by simp [opening]), ?_, by simp [opening], by simp [opening], by simp [opening], by simp [opening],
      fun _ => ⟨hz, by dsimp only; omega, by simp⟩⟩
    · exact slotFor_singleton (by simp only at h2; omega) kept
    · intro x hx; rw [List.mem_singleton.mp hx, listed]; exact Nat.lt_succ_self _
  | head q state above _ =>
    refine ⟨by dsimp only; omega, hflight, hcovered, hsound, fun e he => hlisted e (List.mem_filter.mp he).1, ?_, ?_, ?_, ?_, ?_⟩ <;>
      (intro hst; simp only at hst; simp [hst] at state)
  | frontier f above below =>
    have hft := ho.frontierTail
    refine ⟨hheld, by dsimp only at *; omega, fun hc hr q h1 h2 => hcovered hc hr q (Nat.le_trans above h1) h2, hsound, hlisted,
      haction, hrolling, hscan, fun hst => ?_, hopening⟩
    obtain ⟨h1, h2, h3⟩ := hoff hst
    exact ⟨h1, by dsimp only; omega, h3⟩
  | broken c =>
    exact ⟨hheld, hflight, by simp [State.setEngine, State.breakJournal], by simp [State.setEngine, State.breakJournal], hlisted,
      by simp [State.setEngine], by simp [State.setEngine], by simp [State.setEngine], by simp [State.setEngine],
      by simp [State.setEngine]⟩
  | faulted c state action =>
    refine ⟨hheld, hflight, by simp [State.breakJournal], ?_, hlisted, haction, hrolling, hscan, hoff, hopening⟩
    simp [State.breakJournal, state, action]
  | go e source aim =>
    have hc : s.eng.cause = none := hcause (sound_of_source source)
    have hr : s.eng.state ≠ .resetting := by intro hst; simp [hst] at source
    refine ⟨hheld, hflight, fun _ _ => hcovered hc hr, fun _ => hc, hlisted, ?_, ?_, ?_, ?_, ?_⟩ <;>
      (intro hst; simp only [State.setEngine] at hst; simp [hst] at aim)
  | quiesce a state target =>
    have hr : s.eng.state ≠ .resetting := by intro hst; simp [hst] at state
    refine ⟨hheld, hflight, fun hc _ => hcovered hc hr, ?_, hlisted, ?_, by simp, by simp, by simp, by simp⟩
    · rintro (hs | ⟨_, m, hm⟩)
      · simp at hs
      · have hne := (target m (by simpa using hm)).1
        exact hcause (sound_of_journaling state hne)
    · intro _ m hm
      rcases (target m (by simpa using hm)).2 with rfl | ⟨rfl, hz⟩ | ⟨e, he, rfl⟩
      · rcases segmentStart_mem s with ⟨_, hz⟩ | ⟨e, he, hs⟩
        · dsimp only; omega
        · have := hlisted e he; dsimp only; omega
      · dsimp only; omega
      · have := hlisted e he; dsimp only; omega
  | close state =>
    exact ⟨hheld, hflight, fun hc _ => hcovered hc (by simp [state]), by simp, hlisted, by simp, by simp, by simp, by simp, by simp⟩
  | roll p state action _ =>
    have hc := hsound (.inr ⟨state, _, action⟩)
    refine ⟨hheld, hflight, fun _ _ => hcovered hc (by simp [state]), fun _ => hc, hlisted, by simp, fun _ k hk => ?_, by simp,
      by simp, by simp⟩
    cases hk; exact haction state _ action
  | replay p k state unit target _ =>
    refine ⟨hheld, hflight, hcovered, hsound, hlisted, haction, fun _ k' hk => ?_, hscan, hoff, hopening⟩
    cases hk; rw [target]; exact hrolling state p unit
  | cutBack p state unit =>
    have hlt := hrolling state p unit
    refine ⟨by dsimp only; omega, by simp, fun _ _ q h1 h2 => absurd h1 (Nat.not_le.mpr h2), hsound, fun e he => ?_,
      haction, hrolling, hscan, by simp [state], by simp [state]⟩
    have := (List.mem_filter.mp he).2
    simp at this; dsimp only; omega
  | zero e r w state cause head frontier tail =>
    have hnone : e.cause = none := by
      rcases cause with hc | ⟨opening, hc⟩
      · exact hc
      · exact hc.trans (hcause (by simp [opening]))
    refine ⟨by simp [tail], by simp [tail], fun _ _ q _ h2 => absurd (tail ▸ h2) (Nat.not_lt_zero q), fun _ => hnone, by simp, ?_,
      ?_, ?_, fun _ => ⟨head, frontier, tail⟩, fun _ => ⟨head, by simp [tail], fun _ => tail⟩⟩ <;>
      (intro hst; simp only at hst; simp [hst] at state)
  | start e off state cause =>
    obtain ⟨hz, hf, ht⟩ := hoff off
    exact ⟨hheld, hflight, fun _ _ q _ h2 => absurd (ht ▸ h2) (Nat.not_lt_zero q), fun _ => cause.trans (hcause (by simp [off])),
      hlisted, by simp [state], by simp [state], by simp [state], by simp [state], fun _ => ⟨hz, by simp [ht], fun _ => ht⟩⟩
  | recover e c off state cause _ _ within =>
    obtain ⟨_, _, ht⟩ := hoff off
    exact ⟨hheld, hflight, fun _ _ q _ h2 => absurd (ht ▸ h2) (Nat.not_lt_zero q), fun _ => cause.trans (hcause (by simp [off])),
      hlisted, by simp [state], by simp [state], fun _ k hk => by cases hk; exact within _ hcap, by simp [state], by simp [state]⟩
  | beginScan k state _ _ within =>
    exact ⟨hheld, hflight, hcovered, hsound, hlisted, haction, hrolling, fun _ k' hk => by cases hk; exact within _ hcap, hoff,
      hopening⟩
  | scan c k state unit _ _ within =>
    exact ⟨hheld, hflight, hcovered, hsound, hlisted, haction, hrolling,
      fun _ k' hk => by cases hk; exact within (ho.scan c unit) (hscan state c unit), hoff, hopening⟩
  | install c state unit built head clamped =>
    obtain ⟨hrun, _, hbuilt⟩ := hscan state c unit
    obtain ⟨hcur, hstart, _⟩ := ho.scan c unit
    have hhead : head = c.startSeq := by
      rcases clamped with rfl | ⟨e, he, rfl, hle⟩
      · rfl
      · have := hstart e he; omega
    exact ⟨by dsimp only; omega, by simp, fun _ _ q h1 h2 => absurd h1 (Nat.not_le.mpr h2), fun _ => hcause (by simp [state]),
      hbuilt, by simp [state], by simp [state], by simp, by simp [state], by simp [state]⟩
  | installMark c j e state unit space seq kept listed head clamped =>
    have hcur := (ho.scan c unit).cursor
    refine ⟨by dsimp only; omega, by simp [Config.journalSlots], fun _ _ q h1 h2 => ?_, fun _ => hcause (by simp [state]), ?_,
      by simp [state], by simp [state], by simp, by simp [state], by simp [state]⟩
    · exact slotFor_singleton (by simp only at h1 h2; omega) kept
    · intro x hx; rw [List.mem_singleton.mp hx, listed]; exact Nat.lt_succ_self _
  | softReset => exact ⟨hheld, hflight, by simp, by simp, hlisted, by simp, by simp, by simp, by simp, by simp⟩
  | event | up | down | port | hold | views | timers | pin | aborted | touch | flags | labels =>
    exact ⟨hheld, hflight, hcovered, hsound, hlisted, haction, hrolling, hscan, hoff, hopening⟩

end Sys2Proof.Machine
end


section
/-! SUPPORT. The shared operations of Machine/Ops.lean as chains of moves. -/

namespace Sys2Proof.Machine

/-! ## The links and the port -/

theorem internalTags_ge {t : DownTag} (h : t ∈ internalTags) : 64 ≤ t.toNat := by
  simp only [internalTags, List.mem_map, List.mem_range] at h
  obtain ⟨i, hi, rfl⟩ := h
  simp only [BitVec.toNat_ofNat]; omega

/-- The device's own tags are those from 64 up (R178). -/
theorem freeTag_ge (d : DownLink) : 64 ≤ d.freeTag.toNat := by
  unfold DownLink.freeTag
  cases h : internalTags.find? fun t => !d.inUse t with
  | none => decide
  | some t => exact internalTags_ge (List.mem_of_find?_eq_some h)

theorem mem_hand {d : DownLink} {l : List DownRequest} {q : DownRequest} (h : q ∈ (d.hand l).toIssue ++ (d.hand l).issued) :
    q ∈ d.toIssue ++ d.issued ∨ q ∈ l := by
  unfold DownLink.hand at h
  split at h <;> simp at h ⊢ <;> tauto

theorem mem_hand_toIssue {d : DownLink} {l : List DownRequest} {q : DownRequest} (h : q ∈ (d.hand l).toIssue) :
    q ∈ d.toIssue ∨ q ∈ l := by
  unfold DownLink.hand at h
  split at h
  · exact .inl h
  · exact List.mem_append.mp h

theorem hand_moves (s : State) (l : List DownRequest)
    (h : ∀ q ∈ l, (q.owner = .forward ↔ q.tag.toNat < 64) ∧ q.event = s.eventNo) : Moves s { s with down := s.down.hand l } := by
  refine (Move.down s _ (fun q hq => ?_) fun q hq => ?_).moves
  · exact (mem_hand hq).imp id fun hl => (h q hl).1
  · exact (mem_hand_toIssue hq).imp id fun hl => Nat.le_of_eq (h q hl).2

theorem handOwn_moves (s : State) (op : LinkOp) (a : Addr) (m : Mask) {o : Owner} (ho : o ≠ .forward) :
    Moves s (s.handOwn op a m o) := by
  refine hand_moves s _ fun q hq => ?_
  have := freeTag_ge s.down
  rw [List.mem_singleton.mp hq]
  exact ⟨⟨fun h => absurd h ho, fun h => absurd h (Nat.not_lt.mpr this)⟩, rfl⟩

theorem zeroExtend_lt (t : UpTag) : (t.zeroExtend 7 : DownTag).toNat < 64 := by
  have := t.isLt
  simp only [BitVec.truncate_eq_setWidth, BitVec.toNat_setWidth]; omega

theorem handForward_moves (s : State) (r : Request) : Moves s (s.handForward r) := by
  refine hand_moves s _ fun q hq => ?_
  rw [List.mem_singleton.mp hq]
  exact ⟨⟨fun _ => zeroExtend_lt r.tag, fun _ => rfl⟩, rfl⟩

theorem answer_moves (s : State) (tag : UpTag) (st : LinkStatus) (d : Option Line) : Moves s (s.answer tag st d) := by
  refine (Move.up s _ fun h => ?_).moves
  simp only [UpLink.answer]; split
  · exact h.erase _
  · exact h

theorem pendingForward_moves (s : State) (x : Option UpTag) : Moves s { s with up := { s.up with pendingForward := x } } :=
  (Move.up s { s.up with pendingForward := x } id).moves

theorem freeTag_moves (s : State) (t : DownTag) : Moves s (s.freeTag t) := by
  refine (Move.down s (s.freeTag t).down (fun q hq => .inl ?_) fun q hq => .inl hq).moves
  simp only [List.mem_append] at hq ⊢
  exact hq.imp id fun h => (List.mem_filter.mp h).1

theorem append_events (p : Port) (r : EventRecord) :
    (p.append r).events.length ≤ p.events.length ∨ (p.append r).events.length ≤ Config.eventPlaces := by
  simp only [Port.append]; split
  · rename_i h; right; simp at h; simp; omega
  · exact .inl (Nat.le_refl _)

theorem append_moves (s : State) (r : EventRecord) : Moves s { s with port := s.port.append r } :=
  (Move.port s _ (append_events _ _) rfl).moves

theorem raise_moves (s : State) (k : EventKind) (q d n : Option Nat) : Moves s (s.raise k q d n) := append_moves s _

theorem reply_moves (s : State) (res : MgmtResult) (data : List Byte) : Moves s (s.reply res data) :=
  (Move.port s (s.reply res data).port (.inl (Nat.le_refl _)) rfl).moves

theorem armIfBelow_moves (s : State) : Moves s s.armIfBelow := (Move.flags s _ s.ring.fullReported).moves

theorem occupancyChanged_moves (s : State) : Moves s s.occupancyChanged := by
  refine (Move.flags s (!s.isHigh) s.ring.fullReported).moves.trans ?_
  unfold State.occupancyChanged
  split
  · exact append_moves { s with ring := { s.ring with highArmed := !s.isHigh } } _
  · exact Moves.refl _

theorem flags_moves (s : State) (armed reported : Bool) :
    Moves s { s with ring := { s.ring with highArmed := armed, fullReported := reported } } := (Move.flags s _ _).moves

/-! ## The hold queue -/

theorem holdMap_moves (s : State) (f : List Entry → List Entry) (hl : ∀ q, (f q).length ≤ q.length) :
    Moves s { s with hold := { s.hold with queue := f s.hold.queue } } := by
  refine (Move.hold s _ (.inl (hl _)) fun _ he => ?_).moves
  rw [he]
  have := hl []
  simp [Hold.empty, List.length_eq_zero_iff.mp (Nat.le_zero.mp this)]

theorem wake_moves (s : State) (p : Wait → Bool) : Moves s (s.wake p) :=
  holdMap_moves s (wakeEntries p) fun q => by simp

theorem setWait_moves (s : State) (tag : UpTag) (w : Wait) : Moves s (s.setWait tag w) :=
  holdMap_moves s (List.map _) fun q => by simp

theorem setHeld_moves (s : State) (tag : UpTag) (w : Wait) (b : Bool) : Moves s (s.setHeld tag w b) :=
  holdMap_moves s (List.map _) fun q => by simp

theorem leave_moves (s : State) (r : Request) : Moves s (s.leave r) :=
  holdMap_moves s (fun q => wakeLine r.line (q.filter fun e => e.req.tag ≠ r.tag)) fun q => by
    simp only [wakeLine_length]; exact List.length_filter_le ..

/-- A request is entered, or becomes the waiting request; not while RESETTING with nothing held. -/
theorem enter_moves (s : State) (r : Request) (w : Wait) (h : s.eng.state = .resetting → s.hold.queue ≠ []) :
    Moves s (s.enter r w) := by
  refine (Move.hold s _ ?_ fun hr he => absurd (by rw [he]; rfl) (h hr)).moves
  split
  · right; simp; omega
  · exact .inl (Nat.le_refl _)

theorem waiting_moves (s : State) (r : Request) (h : s.eng.state = .resetting → s.hold.queue ≠ []) :
    Moves s { s with hold := { s.hold with waiting := some r } } :=
  (Move.hold s { s.hold with waiting := some r } (.inl (Nat.le_refl _)) fun hr he => absurd (by rw [he]; rfl) (h hr)).moves

theorem offer_moves (s : State) : Moves s { s with hold := { s.hold with waiting := none } } :=
  (Move.hold s { s.hold with waiting := none } (.inl (Nat.le_refl _)) fun _ he => by rw [he]; rfl).moves

/-! ## The status write -/

theorem issueStatus_moves (s : State) : Moves s s.issueStatus := by
  refine (handOwn_moves s (.write s.statusLine) s.layout.controlLine statusMask (o := .status) (by simp)).trans ?_
  exact (Move.watch (s.handOwn _ _ _ _) s.issueStatus.watch fun _ => .inr id).moves

/-- A status write is requested; the engine waits for one in OPENING only before the OPEN record has its seq. -/
theorem requestStatus_moves (s : State) (waits : Bool) (h : waits = true → s.eng.state = .opening → s.ring.tail = 0) :
    Moves s (s.requestStatus waits) := by
  unfold State.requestStatus
  split
  · refine (Move.watch s _ fun ho => ?_).moves
    cases waits
    · exact .inr id
    · exact .inl (h rfl ho)
  · refine (issueStatus_moves s).trans (Move.watch s.issueStatus _ fun ho => ?_).moves
    cases waits
    · exact .inr id
    · exact .inl (h rfl ho)

theorem requestStatus_false_moves (s : State) : Moves s (s.requestStatus false) := requestStatus_moves s false (by simp)

/-! ## Slots -/

theorem filterSlots_moves (s : State) (p : Slot → Bool)
    (h : ∀ j ∈ s.slots, s.ring.frontier ≤ j.header.seq → j.header.seq < s.ring.tail → j.abandoned = false → p j = true) :
    Moves s { s with slots := s.slots.filter p } := by
  refine (Move.slots s _ (List.length_filter_le ..) (fun q h1 h2 => ?_) fun _ hq j hj => hq j (List.mem_filter.mp hj).1).moves
  rintro ⟨j, hj, rfl, hk⟩
  exact ⟨j, List.mem_filter.mpr ⟨hj, h j hj h1 h2 hk⟩, rfl, hk⟩

theorem slotFreed_moves (s : State) : Moves s s.slotFreed := by
  unfold State.slotFreed; split
  · exact wake_moves s _
  · exact Moves.refl _

theorem keepSlots_moves (s : State) (p : Slot → Bool)
    (h : ∀ j ∈ s.slots, s.ring.frontier ≤ j.header.seq → j.header.seq < s.ring.tail → j.abandoned = false → p j = true) :
    Moves s (s.keepSlots p) := by
  refine (filterSlots_moves s p h).trans ?_
  unfold State.keepSlots; dsimp only; split
  · exact slotFreed_moves _
  · exact Moves.refl _

/-- A slot is noted: its seq stays and it is not abandoned by the note; not while every slot is an abandoned one. -/
theorem setSlot_moves (s : State) (q : Nat) (f : Slot → Slot) (hf : ∀ j, (f j).header = j.header ∧ (f j).abandoned = j.abandoned)
    (h : ∃ j ∈ s.slots, j.abandoned = false) : Moves s (s.setSlot q f) := by
  refine (Move.slots s _ (by simp) (fun q' _ _ => ?_) fun _ hq => ?_).moves
  · rintro ⟨j, hj, rfl, hk⟩
    refine ⟨_, List.mem_map.mpr ⟨j, hj, rfl⟩, ?_, ?_⟩ <;> split <;> simp [hf, hk]
  · obtain ⟨j, hj, hk⟩ := h
    have := (hq j hj).1
    simp [hk] at this

/-- A request of an abandoned slot returns: it is noted, and the slot freed with its last request (R86). -/
theorem freeAbandoned_setSlot_moves (s : State) (q : Nat) (f : Slot → Slot)
    (hf : ∀ j, (f j).header = j.header ∧ (f j).abandoned = j.abandoned) : Moves s (s.setSlot q f).freeAbandoned := by
  have hset : ∀ j, (if j.header.seq = q then f j else j).header = j.header ∧
      (if j.header.seq = q then f j else j).abandoned = j.abandoned := by
    intro j; split <;> simp [hf]
  have hmove : Moves s { s with slots := (s.setSlot q f).slots.filter fun j => !j.abandoned || j.busy } := by
    refine (Move.slots s _ (Nat.le_trans (List.length_filter_le ..) (by simp)) (fun q' _ _ => ?_) fun _ hq => ?_).moves
    · rintro ⟨j, hj, rfl, hk⟩
      refine ⟨_, List.mem_filter.mpr ⟨List.mem_map.mpr ⟨j, hj, rfl⟩, ?_⟩, ?_, ?_⟩
      · simp only [(hset j).2, hk, Bool.not_false, Bool.true_or]
      · rw [(hset j).1]
      · rw [(hset j).2, hk]
    · intro k hk
      obtain ⟨hm, hb⟩ := List.mem_filter.mp hk
      obtain ⟨j, hj, rfl⟩ := List.mem_map.mp hm
      have hab := (hq j hj).1
      rw [(hset j).2]
      refine ⟨hab, ?_⟩
      simpa only [(hset j).2, hab, Bool.not_true, Bool.false_or] using hb
  refine hmove.trans ?_
  unfold State.freeAbandoned State.keepSlots; dsimp only; split
  · exact slotFreed_moves _
  · exact Moves.refl _

/-! ## Entry into BROKEN, ACTIVE -/

theorem raiseBroken_moves (s : State) (c : Cause) : Moves s (s.raiseBroken c) := raise_moves ..

theorem enterBroken_moves (s : State) (c : Cause) : Moves s (s.enterBroken c) :=
  (Move.broken s c).moves.trans ((raiseBroken_moves _ c).trans ((requestStatus_false_moves _).trans (wake_moves _ _)))

theorem setEngine_moves (s : State) (e : EngineState)
    (source : s.eng.state ∈ [EngineState.active, .stalled, .opening, .rolling, .scanning])
    (aim : e ∈ [EngineState.active, .stalled, .broken]) : Moves s (s.setEngine e) :=
  (Move.go s e source aim).moves

theorem enterActive_moves (s : State) (source : s.eng.state ∈ [EngineState.active, .stalled, .opening, .rolling, .scanning]) :
    Moves s s.enterActive :=
  (setEngine_moves s .active source (by simp)).trans (wake_moves _ _)

/-! ## Assigning records -/

theorem assign_moves (s : State) (j : Slot) (active : s.eng.state = .active) (free : s.slotFree = true) (space : s.hasSpace = true)
    (seq : j.header.seq = s.ring.tail) (kept : j.abandoned = false) : Moves s (s.assign j) :=
  (Move.assign s j s.segments active free space seq kept (.inl rfl)).moves.trans (occupancyChanged_moves _)

theorem touch_moves (s : State) (t : Touch)
    (room : t.entries.length ≤ s.touch.entries.length ∨ t.entries.length ≤ Config.touchPlaces) : Moves s { s with touch := t } :=
  (Move.touch s t room).moves

theorem touchEmpty_moves (s : State) : Moves s { s with touch := Touch.empty } := touch_moves s _ (.inr (Nat.zero_le _))

theorem handHeader_moves (s : State) (h : Header) : Moves s (s.handHeader h) := handOwn_moves s _ _ _ (by simp)

/-- What the acceptance of a marker needs (R29). -/
theorem markRefusal_none {s : State} (h : s.markRefusal = none) :
    s.eng.state = .active ∧ s.segments.length < Config.segmentPlaces ∧ s.slotFree = true ∧ s.hasSpace = true := by
  unfold State.markRefusal at h
  repeat' split at h
  all_goals simp_all

theorem acceptMark_moves (s : State) (src : Source) (tag : MarkTag) (h : s.markRefusal = none) : Moves s (s.acceptMark src tag) := by
  obtain ⟨active, room, free, space⟩ := markRefusal_none h
  have assigned := (Move.assign s (headerSlot (s.markHeader src tag)) (s.segments ++ [{ seq := s.ring.tail, tag := tag, source := src }])
    active free space rfl rfl (.inr ⟨_, rfl, room, rfl⟩)).moves
  exact assigned.trans ((occupancyChanged_moves _).trans ((touchEmpty_moves _).trans (handHeader_moves _ _)))

theorem requestMark_moves (s : State) (src : Source) (tag : MarkTag) : Moves s (s.requestMark src tag) := by
  unfold State.requestMark; split
  · rename_i h; exact acceptMark_moves s src tag h
  · exact raise_moves ..

end Sys2Proof.Machine
end


section
/-! SUPPORT. The frontier, the faults and the decisions of requests (Machine/Ops.lean, Machine/Hold.lean) as chains of moves. -/

namespace Sys2Proof.Machine

/-! ## The frontier -/

theorem entryIssued_moves (s : State) (r : Request) : Moves s (s.entryIssued r) :=
  (leave_moves s r).trans (keepSlots_moves _ _ fun j _ h _ _ => by
    have h' : s.ring.frontier ≤ j.header.seq := h
    simp [h'])

theorem foldl_moves {α : Type} (f : State → α → State) (h : ∀ s a, Moves s (f s a)) (l : List α) (s : State) :
    Moves s (l.foldl f s) := by
  induction l generalizing s with
  | nil => exact Moves.refl s
  | cons a as ih => exact (h s a).trans (ih (f s a))

theorem forwardHeld_moves (s : State) (p : Entry → Bool) : Moves s (s.forwardHeld p) := by
  unfold State.forwardHeld; dsimp only
  have handed := foldl_moves (fun t (e : Entry) => t.handForward e.req) (fun t e => handForward_moves t e.req)
    (s.hold.queue.filter p) s
  have cleared := holdMap_moves ((s.hold.queue.filter p).foldl (fun t e => t.handForward e.req) s)
    (List.map fun e => if p e then { e with wait := .issue } else e) fun q => by simp
  split
  · exact (handed.trans cleared).trans (foldl_moves _ (fun t (e : Entry) => entryIssued_moves t e.req) _ _)
  · exact handed.trans cleared

theorem openingDone_moves (s : State) (h : s.eng.state = .opening) : Moves s s.openingDone :=
  (enterActive_moves s (by simp [h])).trans (raise_moves ..)

theorem opensAt_opening {s : State} {f : Nat} (h : s.opensAt f = true) : s.eng.state = .opening := by
  simp [State.opensAt] at h; exact h.1

theorem moveFrontier_moves (s : State) (f : Nat) (above : s.ring.frontier ≤ f) (below : f ≤ s.ring.tail ∨ f = s.ring.frontier) :
    Moves s (s.moveFrontier f) := by
  set u : State := { s with ring := { s.ring with frontier := f } }
  have moved : Moves s u := (Move.frontier s f above below).moves
  have released := forwardHeld_moves u (Entry.passedBy · f)
  have freed := keepSlots_moves (u.forwardHeld (Entry.passedBy · f)) (Slot.staysAt f) fun j _ h _ _ => by
    have h' : f ≤ j.header.seq := by simpa [u] using h
    simp [Slot.staysAt, h']
  have opened : Moves ((u.forwardHeld (Entry.passedBy · f)).keepSlots (Slot.staysAt f))
      (if s.opensAt f then ((u.forwardHeld (Entry.passedBy · f)).keepSlots (Slot.staysAt f)).openingDone
        else (u.forwardHeld (Entry.passedBy · f)).keepSlots (Slot.staysAt f)) := by
    split
    · rename_i h; exact openingDone_moves _ (by simp [u, opensAt_opening h])
    · exact Moves.refl _
  have upTo := moved.trans (released.trans (freed.trans opened))
  unfold State.moveFrontier; dsimp only
  split
  · exact upTo.trans (requestStatus_false_moves _)
  · exact upTo

theorem newFrontier_ge (s : State) : s.ring.frontier ≤ s.newFrontier := frontierFrom_ge ..

theorem newFrontier_le (s : State) : s.newFrontier ≤ s.ring.tail ∨ s.newFrontier = s.ring.frontier := by
  have h1 := frontierFrom_le s.slots (s.ring.tail - s.ring.frontier) s.ring.frontier
  have h2 := newFrontier_ge s
  unfold State.newFrontier at *; omega

theorem advanceFrontier_moves (s : State) : Moves s s.advanceFrontier := by
  unfold State.advanceFrontier; split
  · exact Moves.refl s
  · exact moveFrontier_moves s _ (newFrontier_ge s) (newFrontier_le s)

/-! ## Faults -/

theorem quiesceFault_moves (s : State) (c : Cause) (h : s.eng.state = .quiescing) : Moves s (s.quiesceFault c) := by
  have faulted : (∀ m, s.eng.action ≠ some (.rollback m)) →
      Moves s ((((s.breakJournal c).forwardHeld Entry.heldRecord).raiseBroken c).requestStatus false) := fun ha =>
    (Move.faulted s c h ha).moves.trans ((forwardHeld_moves _ _).trans
      ((raiseBroken_moves _ c).trans (requestStatus_false_moves _)))
  unfold State.quiesceFault
  split
  · exact (Move.dropAction s).moves.trans ((enterBroken_moves _ c).trans (raise_moves ..))
  all_goals exact faulted (by simp_all)

theorem journalFault_moves (s : State) (c : Cause) : Moves s (s.journalFault c) := by
  unfold State.journalFault
  split
  · exact Moves.refl s
  split
  · rename_i h
    split
    · exact Moves.refl s
    · exact quiesceFault_moves s c h
  · exact enterBroken_moves s c

/-! ## Watched writes -/

theorem raiseHead_moves (s : State) (h : Nat) (state : s.eng.state ∈ [EngineState.active, .stalled, .broken])
    (above : s.ring.head ≤ h) (limit : h ≤ s.releaseLimit) : Moves s (s.raiseHead h) := by
  have moved := (Move.head s h state above limit).moves.trans (flags_moves _ s.ring.highArmed false)
  unfold State.raiseHead; dsimp only
  split
  · rename_i hs
    refine (moved.trans (armIfBelow_moves _)).trans ((Move.timers _ s.timer none).moves.trans (enterActive_moves _ ?_))
    have hst : s.eng.state = .stalled := hs.1
    show s.eng.state ∈ _
    simp [hst]
  · exact moved.trans (armIfBelow_moves _)

theorem release_moves (s : State) (v : Nat) (e : Epoch) (state : s.eng.state ∈ [EngineState.active, .stalled, .broken, .off]) :
    Moves s (s.release v e) := by
  unfold State.release; dsimp only
  split
  · exact raise_moves ..
  rename_i hn
  have state' : s.eng.state ∈ [EngineState.active, .stalled, .broken] := by
    simp only [List.mem_cons, List.not_mem_nil, or_false] at state ⊢; tauto
  split
  · exact Moves.refl s
  split
  · exact raiseHead_moves s v state' (by omega) ‹_›
  · refine Relation.ReflTransGen.trans (b := if s.ring.head < s.releaseLimit then s.raiseHead s.releaseLimit else s) ?_ (raise_moves ..)
    split
    · exact raiseHead_moves s _ state' (by omega) (Nat.le_refl _)
    · exact Moves.refl s

theorem watchAction_moves (s : State) (r : Request)
    (state : watchKind r.mask ≠ .malformed → s.eng.state ∈ [EngineState.active, .stalled, .broken, .off]) :
    Moves s (s.watchAction r) := by
  unfold State.watchAction
  split
  · exact release_moves s _ _ (state (by simp_all))
  · exact requestMark_moves ..
  · split
    · exact Moves.refl s
    · exact raise_moves ..

/-! ## What a decision asks for -/

/-- In which states a decision can come to a verdict that changes the journal or holds the request. -/
def State.admits (s : State) (r : Request) : Verdict → Prop
  | .hold _ => s.eng.state ≠ .resetting
  | .journal => s.eng.state = .active ∧ s.slotFree = true ∧ s.hasSpace = true
  | .stallRing => s.eng.state = .active
  | .breakFull => s.eng.state = .active
  | .watch => s.eng.state ≠ .resetting ∧
      (watchKind r.mask ≠ .malformed → s.eng.state ∈ [EngineState.active, .stalled, .broken, .off])
  | .view _ => s.views.length < Config.viewPlaces
  | .forward | .answer _ | .refuseFull => True

theorem journalVerdict_admits (s : State) (r : Request) (b : Bool) (h : s.eng.state = .active) : s.admits r (s.journalVerdict r b) := by
  unfold State.journalVerdict State.fullVerdict
  repeat' split
  all_goals simp_all [State.admits]

theorem watchVerdict_admits (s : State) (r : Request) : s.admits r (s.watchVerdict r) := by
  unfold State.watchVerdict
  repeat' split
  all_goals simp_all [State.admits]

theorem journaledVerdict_admits (s : State) (r : Request) (b : Bool) : s.admits r (s.journaledVerdict r b) := by
  unfold State.journaledVerdict
  split
  · exact journalVerdict_admits s r b ‹_›
  · split <;> simp_all [State.admits]
  all_goals simp_all [State.admits]

theorem writeVerdict_admits (s : State) (r : Request) (b : Bool) : s.admits r (s.writeVerdict r b) := by
  unfold State.writeVerdict
  split
  · trivial
  split
  · trivial
  split
  · trivial
  split
  · exact watchVerdict_admits s r
  split
  · exact journaledVerdict_admits s r b
  · trivial

theorem viewVerdict_admits (s : State) (r : Request) : s.admits r (s.viewVerdict r) := by
  unfold State.viewVerdict State.viewSourceVerdict
  repeat' split
  all_goals simp_all [State.admits]

theorem verdict_admits (s : State) (r : Request) (b : Bool) : s.admits r (s.verdict r b) := by
  unfold State.verdict
  split
  · exact writeVerdict_admits s r b
  · unfold State.readVerdict; repeat' split
    all_goals simp_all [State.admits]
  · exact viewVerdict_admits s r

/-! ## What a decision does -/

theorem holdRequest_moves (s : State) (queued : Bool) (r : Request) (w : Wait) (h : s.eng.state ≠ .resetting) :
    Moves s (s.holdRequest queued r w) := by
  unfold State.holdRequest; split
  · exact setHeld_moves ..
  · exact enter_moves s _ _ fun hr => absurd hr h

theorem forwardRequest_moves (s : State) (queued : Bool) (r : Request) : Moves s (s.forwardRequest queued r) := by
  have handed := handForward_moves s r
  unfold State.forwardRequest; dsimp only
  split
  · exact handed.trans (leave_moves ..)
  · exact handed.trans (setWait_moves ..)
  · exact handed
  · exact handed.trans (pendingForward_moves _ _)

theorem answerRequest_moves (s : State) (queued : Bool) (r : Request) (st : LinkStatus) : Moves s (s.answerRequest queued r st) := by
  unfold State.answerRequest; split
  · exact (answer_moves ..).trans (leave_moves ..)
  · exact answer_moves ..

theorem insert_entries (t : Touch) (x : Addr) (q : Nat) :
    (t.insert x q).entries.length ≤ t.entries.length ∨ (t.insert x q).entries.length ≤ Config.touchPlaces := by
  unfold Touch.insert
  split
  · exact .inl (Nat.le_refl _)
  split
  · right; simp; omega
  · exact .inl (Nat.le_refl _)

theorem touchInsert_moves (s : State) (x : Addr) (q : Nat) : Moves s (s.touchInsert x q) := by
  have inserted := touch_moves s _ (insert_entries s.touch x q)
  unfold State.touchInsert; dsimp only; split
  · exact inserted.trans (raise_moves ..)
  · exact inserted

theorem startOperation_moves (s : State) (r : Request) (active : s.eng.state = .active) (free : s.slotFree = true)
    (space : s.hasSpace = true) : Moves s (s.startOperation r) :=
  (assign_moves s _ active free space rfl rfl).trans ((touchInsert_moves ..).trans (handOwn_moves _ _ _ _ (by simp)))

theorem takeView_moves (s : State) (queued : Bool) (r : Request) (src : ViewSource) (room : s.views.length < Config.viewPlaces) :
    Moves s (s.takeView queued r src) := by
  have placed : Moves s { s with views := s.views ++ [{ tag := r.tag, mask := r.mask, source := src, internalTag := s.down.freeTag }] } :=
    (Move.views s _ (.inr (by simp; omega))).moves
  unfold State.takeView; dsimp only
  cases src <;> cases queued
  · exact placed.trans (handOwn_moves _ _ _ _ (by simp))
  · exact placed.trans ((handOwn_moves _ _ _ _ (by simp)).trans (leave_moves ..))
  · exact placed.trans (handOwn_moves _ _ _ _ (by simp))
  · exact placed.trans ((handOwn_moves _ _ _ _ (by simp)).trans (leave_moves ..))

theorem reportFull_moves (s : State) (r : Request) : Moves s (s.reportFull r) := by
  unfold State.reportFull; split
  · exact Moves.refl s
  · exact (raise_moves ..).trans (flags_moves (s.raiseRingFull r) s.ring.highArmed true)

theorem enterStalled_moves (s : State) (h : s.eng.state = .active) : Moves s s.enterStalled :=
  (setEngine_moves s .stalled (by simp [h]) (by simp)).trans (Move.timers _ s.timer (some 0)).moves

theorem startOperation_eng (s : State) (r : Request) : (s.startOperation r).eng = s.eng := by
  unfold State.startOperation State.touchInsert; dsimp only; split <;> simp

theorem holdRequest_eng (s : State) (queued : Bool) (r : Request) (w : Wait) : (s.holdRequest queued r w).eng = s.eng := by
  unfold State.holdRequest; split <;> simp

theorem enact_moves (s : State) (queued : Bool) (r : Request) (v : Verdict) (h : s.admits r v) : Moves s (s.enact queued r v) := by
  cases v with
  | forward => exact forwardRequest_moves ..
  | answer st => exact answerRequest_moves ..
  | hold w => exact holdRequest_moves s queued r w h
  | journal =>
    obtain ⟨active, free, space⟩ := h
    exact (startOperation_moves s r active free space).trans (holdRequest_moves _ _ _ _ (by rw [startOperation_eng, active]; simp))
  | stallRing =>
    have active : s.eng.state = .active := h
    exact (holdRequest_moves s queued r _ (by simp [active])).trans
      ((enterStalled_moves _ (by rw [holdRequest_eng]; exact active)).trans (raise_moves ..))
  | refuseFull => exact (reportFull_moves s r).trans (answerRequest_moves ..)
  | breakFull => exact (enterBroken_moves s _).trans (forwardRequest_moves ..)
  | watch => exact (watchAction_moves s r h.2).trans (forwardRequest_moves ..)
  | view src => exact takeView_moves s queued r src h

theorem decideArrival_moves (s : State) (r : Request) : Moves s (s.decideArrival r) := by
  unfold State.decideArrival; dsimp only; split
  · rename_i h
    refine waiting_moves s r fun _ hn => ?_
    have := h.2
    simp [hn, Config.holdPlaces] at this
  · exact enact_moves s false r _ (verdict_admits ..)

theorem submit_moves (s : State) (r : Request) : Moves s (s.submit r) := by
  unfold State.submit; split
  · rename_i h
    exact enter_moves s r _ fun _ hn => by simp [hn] at h
  · exact decideArrival_moves s r

theorem decideEntry_moves (s : State) (r : Request) : Moves s (s.decideEntry r) := enact_moves s true r _ (verdict_admits ..)

theorem settle_moves (s : State) : Moves s s.settle :=
  settleQueue_keeps (P := Moves s) (fun _ e m _ => m.trans (decideEntry_moves _ e.req))
    (fun t r m _ => (m.trans (offer_moves t)).trans (submit_moves _ r)) _ s (Moves.refl s)

end Sys2Proof.Machine
end


section
/-! SUPPORT. The operations of the engine, of replay and of the scan (Machine/Engine.lean) as chains of moves, and the end of an
event. -/

namespace Sys2Proof.Machine

/-! ## Opening, closing, quiescing -/

theorem openingStep1_moves (s : State) (h : s.eng.state = .opening) : Moves s s.openingStep1 := by
  have cleared := (Move.zero s { s.eng with cause := none, action := none, pendingTarget := none }
    { head := 0, frontier := 0, tail := 0, highArmed := true, fullReported := false } s.watch (.inr h) (.inl rfl) rfl rfl rfl).moves
  refine cleared.trans ((touchEmpty_moves _).trans ((Move.timers _ { s.timer with counter := 0, phase := 0 } s.stall).moves.trans ?_))
  exact requestStatus_moves _ true fun _ _ => rfl

theorem assignOpen_moves (s : State) (j : Slot) (opening : s.eng.state = .opening)
    (first : s.segments = [] ∨ s.watch.occasion ≠ .idle) (seq : j.header.seq = s.ring.tail) (kept : j.abandoned = false) :
    Moves s (s.assignOpen j) :=
  (Move.openRecord s j { seq := s.ring.tail, tag := 0, source := s.eng.opener.source } opening first seq kept rfl).moves.trans
    (occupancyChanged_moves _)

theorem openRecord_moves (s : State) (opening : s.eng.state = .opening) (h : s.watch.occasion ≠ .idle) : Moves s s.openRecord :=
  (assignOpen_moves s _ opening (.inr h) rfl rfl).trans (handHeader_moves _ _)

theorem openingBroken_moves (s : State) (opening : s.eng.state = .opening) (h : s.segments = []) : Moves s s.openingBroken :=
  (assignOpen_moves s _ opening (.inl h) rfl rfl).trans (enterBroken_moves _ _)

theorem closeEpoch_moves (s : State) : Moves s s.closeEpoch := by
  have cleared := (Move.zero s { s.eng with state := .off, epoch := 0, cause := none, pendingTarget := none }
    { s.ring with head := 0, frontier := 0, tail := 0, fullReported := false } { s.watch with occasion := .idle }
    (.inl rfl) (.inl rfl) rfl rfl rfl).moves
  exact cleared.trans ((touchEmpty_moves _).trans ((occupancyChanged_moves _).trans ((raise_moves _ .closed (some s.ring.frontier)
    (some s.eng.epoch.toNat) none).trans (wake_moves _ _))))

theorem beginRollback_moves (s : State) (m : Nat) (state : s.eng.state = .quiescing) (action : s.eng.action = some (.rollback m)) :
    Moves s (s.beginRollback m) :=
  (Move.roll s _ state action rfl).moves.trans (requestStatus_moves _ true fun _ h => by simp at h)

theorem quiesceDue_iff {s : State} : s.quiesceDue = true ↔ s.eng.state = .quiescing ∧ s.eng.action.isSome = true ∧ s.slots = [] := by
  simp [State.quiesceDue, and_assoc]

theorem endQuiesce_moves (s : State) (state : s.eng.state = .quiescing) : Moves s s.endQuiesce := by
  unfold State.endQuiesce
  split
  · have opened := (Move.zero s
      { s.eng with state := .opening, epoch := nextEpoch s.eng.epoch, opener := .commit, cause := none, action := none
                   pendingTarget := none }
      { head := 0, frontier := 0, tail := 0, highArmed := true, fullReported := false } s.watch (.inr rfl) (.inl rfl) rfl rfl rfl).moves
    exact opened.trans ((touchEmpty_moves _).trans ((Move.timers _ { s.timer with counter := 0, phase := 0 } s.stall).moves.trans
      (requestStatus_moves _ true fun _ _ => rfl)))
  · exact (Move.close s state).moves.trans (requestStatus_moves _ true fun _ h => by simp at h)
  · exact beginRollback_moves s _ state ‹_›
  · exact Moves.refl s

theorem checkQuiesce_moves (s : State) : Moves s s.checkQuiesce := by
  unfold State.checkQuiesce; split
  · exact endQuiesce_moves s (quiesceDue_iff.mp ‹_›).1
  · exact Moves.refl s

/-! ## Replay -/

theorem replay_moves (s : State) {p : Replay} (k : Replay) (state : s.eng.state = .rolling) (unit : s.replay = some p)
    (target : k.target = p.target) (room : k.places.length ≤ p.places.length ∨ k.places.length ≤ Config.replayPlaces) :
    Moves s { s with replay := some k } := (Move.replay s p k state unit target room).moves

theorem readReplay_eng (n : Nat) (s : State) : (State.readReplay n s).eng = s.eng := by
  induction n generalizing s with
  | zero => rfl
  | succ n ih =>
    unfold State.readReplay
    split
    · rfl
    · split
      · exact (ih _).trans rfl
      · rfl

theorem readReplay_moves (n : Nat) (s : State) (state : s.eng.state = .rolling) : Moves s (State.readReplay n s) := by
  induction n generalizing s with
  | zero => exact Moves.refl s
  | succ n ih =>
    unfold State.readReplay
    split
    · exact Moves.refl s
    · rename_i p hp
      split
      · rename_i h
        have read := (handOwn_moves s .read (s.layout.headerAddr p.readCursor) fullMask (o := .replayHeader p.readCursor) (by simp)).trans
          (handOwn_moves _ .read (s.layout.dataAddr p.readCursor) fullMask (o := .replayData p.readCursor) (by simp))
        have room : (p.places ++ [freshReplayPlace p.readCursor]).length ≤ Config.replayPlaces := by
          have := h.2.1; simp; omega
        have taken := replay_moves (State.handOwn (State.handOwn s .read (s.layout.headerAddr p.readCursor) fullMask
            (.replayHeader p.readCursor)) .read (s.layout.dataAddr p.readCursor) fullMask (.replayData p.readCursor))
          { p with places := p.places ++ [freshReplayPlace p.readCursor], readCursor := p.readCursor - 1 } state hp rfl (.inr room)
        exact (read.trans taken).trans (ih _ (by exact state))
      · exact Moves.refl s

theorem settled_places_le (p : Replay) (q f : Nat) : (p.settled q f).places.length ≤ p.places.length := List.length_filter_le ..

theorem settleReplay_moves (n : Nat) (s : State) (state : s.eng.state = .rolling) : Moves s (State.settleReplay n s) := by
  induction n generalizing s with
  | zero => exact Moves.refl s
  | succ n ih =>
    have settledOn : ∀ (p : Replay) (q f : Nat), s.replay = some p →
        Moves s (State.settleReplay n (State.readReplay 1 { s with replay := some (p.settled q f) })) := by
      intro p q f hp
      have freed := replay_moves s (p.settled q f) state hp rfl (.inl (settled_places_le p q f))
      have read := readReplay_moves 1 { s with replay := some (p.settled q f) } (by exact state)
      exact (freed.trans read).trans (ih _ (by rw [readReplay_eng]; exact state))
    unfold State.settleReplay
    split
    · exact Moves.refl s
    rename_i p hp
    split
    · exact Moves.refl s
    rename_i x _
    split
    · exact Moves.refl s
    · exact settledOn p _ _ hp
    · exact settledOn p _ _ hp
    · rename_i line data _
      dsimp only
      have handed := handOwn_moves s (.write data) line fullMask (o := .restore x.seq) (by simp)
      split
      · refine handed.trans (Relation.ReflTransGen.trans (replay_moves (s.handOwn (.write data) line fullMask (.restore x.seq))
          { p with places := p.places.map fun y => if y.seq = x.seq then { y with writing := true } else y, cursor := x.seq - 1 }
          state hp rfl (.inl (by simp))) ?_)
        exact ih _ state
      · exact handed.trans (replay_moves (s.handOwn (.write data) line fullMask (.restore x.seq)) _ state hp rfl (.inl (by simp)))

theorem cutBack_moves (s : State) (p : Replay) (state : s.eng.state = .rolling) (unit : s.replay = some p) :
    Moves s (s.cutBack p.target) :=
  (Move.cutBack s p state unit).moves.trans ((Move.labels _ s.eng.epoch none).moves.trans
    ((flags_moves _ s.ring.highArmed false).trans ((touchEmpty_moves _).trans ((Move.replayIdle _).moves.trans
      (armIfBelow_moves _)))))

theorem endRollback_moves (s : State) (state : s.eng.state = .rolling) : Moves s s.endRollback := by
  unfold State.endRollback
  split
  · exact Moves.refl s
  · rename_i p hp
    have cut := cutBack_moves s p state hp
    have rolling : (s.cutBack p.target).eng.state = .rolling := state
    dsimp only
    split
    · exact cut.trans ((enterActive_moves _ (by simp [rolling])).trans ((requestStatus_false_moves _).trans (raise_moves ..)))
    · exact cut.trans ((enterBroken_moves _ _).trans (raise_moves ..))

theorem rollbackDue_rolling {s : State} (h : s.rollbackDue = true) : s.eng.state = .rolling := by
  simp [State.rollbackDue] at h; exact h.1

theorem checkRollback_moves (s : State) : Moves s s.checkRollback := by
  unfold State.checkRollback; split
  · exact endRollback_moves s (rollbackDue_rolling ‹_›)
  · exact Moves.refl s

theorem goOnReplay_moves (s : State) (state : s.eng.state = .rolling) : Moves s s.goOnReplay :=
  (settleReplay_moves _ s state).trans (checkRollback_moves _)

theorem occasionIdle_moves (s : State) : Moves s { s with watch := { s.watch with occasion := .idle } } :=
  (Move.watch s { s.watch with occasion := .idle } fun _ => .inr fun _ => rfl).moves

theorem beginReplay_moves (s : State) (state : s.eng.state = .rolling) : Moves s s.beginReplay := by
  unfold State.beginReplay
  split
  · exact Moves.refl s
  · rename_i p hp
    have begun := (occasionIdle_moves s).trans
      (replay_moves { s with watch := { s.watch with occasion := .idle } } { p with begun := true } state hp rfl (.inl (Nat.le_refl _)))
    exact begun.trans ((readReplay_moves Config.replayPlaces _ (by exact state)).trans (checkRollback_moves _))

theorem abandonRollback_moves (s : State) : Moves s s.abandonRollback := by
  have idle := (Move.replayIdle s).moves.trans ((occasionIdle_moves _).trans (enterBroken_moves _ .controlFault))
  unfold State.abandonRollback; dsimp only; split
  · exact idle.trans (raise_moves ..)
  · exact idle

/-! ## The scan -/

theorem list_bounded {c : Scan} (h : c.Bounded) (e : Segment) : (c.list e).built.length ≤ Config.segmentPlaces := by
  have := h.built
  unfold Scan.list
  split
  · simp [Config.segmentPlaces]
  · rename_i hb
    split <;> simp_all

theorem list_rest (c : Scan) (e : Segment) :
    (c.list e).table = c.table ∧ (c.list e).places = c.places ∧ (c.list e).startSeq = c.startSeq ∧ (c.list e).phase = c.phase ∧
      (c.list e).stopped = c.stopped ∧ (c.list e).cursor = c.cursor := by
  unfold Scan.list; split
  · simp
  · split <;> simp

theorem mem_list {c : Scan} {e x : Segment} (h : x ∈ (c.list e).built) : x ∈ c.built ∨ x = e := by
  unfold Scan.list at h
  split at h
  · simp at h; exact .inr h
  · rename_i hb
    rw [hb]
    split at h <;> simp at h ⊢ <;> tauto

/-- What taking a record into the run leaves alone, and what it lists (R161). -/
theorem take_spec (c : Scan) (h : Line) (q : Nat) :
    (c.take h q).places = c.places ∧ (c.take h q).startSeq = c.startSeq ∧ (c.take h q).phase = c.phase ∧
      (c.take h q).stopped = c.stopped ∧ ∀ x ∈ (c.take h q).built, x ∈ c.built ∨ x.seq = q := by
  unfold Scan.take
  split
  · split <;> exact ⟨rfl, rfl, rfl, rfl, fun x hx => .inl hx⟩
  · obtain ⟨_, h1, h2, h3, h4, _⟩ := list_rest c { seq := q, tag := readTag h, source := readSource h }
    exact ⟨h1, h2, h3, h4, fun x hx => (mem_list hx).imp id fun he => by rw [he]⟩

theorem take_bounded {c : Scan} (hb : c.Bounded) (h : Line) (q : Nat) : (c.take h q).Bounded := by
  unfold Scan.take
  split
  · split
    · exact hb
    · exact ⟨hb.built, by have := hb.table; have := insert_entries c.table (readLine h) q; dsimp only; omega, hb.places⟩
  · exact ⟨list_bounded hb _, Nat.zero_le _, by rw [show _ = c.places from (list_rest c _).2.1]; exact hb.places⟩

/-- Judging a place in phase RUN stops the run, or takes the record at the cursor into it (R161). -/
theorem judge_cases (c : Scan) (x : ScanPlace) (capacity : Nat) :
    c.judge x capacity = { c with stopped := true } ∨ ∃ h, c.judge x capacity = (c.take h x.seq).advance x.seq capacity := by
  unfold Scan.judge
  split
  · split
    · exact .inr ⟨_, rfl⟩
    · exact .inl rfl
  all_goals exact .inl rfl

/-- Settling a place moves the seek on, or judges the place in phase RUN (R160, R161). -/
theorem settle_cases (c : Scan) (x : ScanPlace) (capacity : Nat) :
    (∃ q, c.phase = .seek ∧ c.settle x capacity = c.seekTo q) ∨ ∃ k : Scan, k.phase = .run ∧ k = { c with phase := .run } ∧
      c.settle x capacity = k.judge x capacity := by
  unfold Scan.settle
  split
  · rename_i h; exact .inr ⟨c, h, by rw [← h], rfl⟩
  · rename_i h
    split
    · exact .inl ⟨_, h, rfl⟩
    · exact .inr ⟨_, rfl, rfl, rfl⟩

theorem judge_bounded {c : Scan} (h : c.Bounded) (x : ScanPlace) (capacity : Nat) : (c.judge x capacity).Bounded := by
  rcases judge_cases c x capacity with he | ⟨l, he⟩ <;> rw [he]
  · exact ⟨h.built, h.table, h.places⟩
  · have hk := take_bounded h l x.seq
    refine ⟨hk.built, hk.table, Nat.le_trans (List.length_filter_le ..) ?_⟩
    rw [(take_spec c l x.seq).1]; exact h.places

theorem settle_bounded {c : Scan} (h : c.Bounded) (x : ScanPlace) (capacity : Nat) : (c.settle x capacity).Bounded := by
  rcases settle_cases c x capacity with ⟨q, _, he⟩ | ⟨k, _, rfl, he⟩ <;> rw [he]
  · exact ⟨h.built, h.table, Nat.le_trans (List.length_filter_le ..) h.places⟩
  · exact judge_bounded (c := { c with phase := .run }) ⟨h.built, h.table, h.places⟩ x capacity

theorem judge_ordered {c : Scan} (h : c.Ordered) {x : ScanPlace} (hx : x.seq = c.cursor) (hr : c.phase = .run) (capacity : Nat) :
    (c.judge x capacity).Ordered := by
  rcases judge_cases c x capacity with he | ⟨l, he⟩ <;> rw [he]
  · exact ⟨h.cursor, h.built, h.seek⟩
  · obtain ⟨_, hs, hp, _, hb⟩ := take_spec c l x.seq
    have hcur := h.cursor
    refine ⟨?_, fun e hm => ?_, fun hc => ?_⟩
    · show (c.take l x.seq).startSeq ≤ x.seq + 1
      omega
    · show (c.take l x.seq).startSeq ≤ e.seq
      rcases hb e hm with hm | hm
      · have := h.built e hm; omega
      · omega
    · have : (c.take l x.seq).phase = .seek := hc
      rw [hp, hr] at this; cases this

theorem settle_ordered {c : Scan} (h : c.Ordered) {x : ScanPlace} (hx : x.seq = c.cursor) (capacity : Nat) :
    (c.settle x capacity).Ordered := by
  rcases settle_cases c x capacity with ⟨q, hs, he⟩ | ⟨k, hr, rfl, he⟩ <;> rw [he]
  · exact ⟨Nat.le_refl _, by simp [Scan.seekTo, h.seek hs], fun _ => h.seek hs⟩
  · exact judge_ordered (c := { c with phase := .run }) ⟨h.cursor, h.built, by simp⟩ hx rfl capacity

theorem judge_withinRing {c : Scan} {capacity : Nat} (h : c.WithinRing capacity) (hn : c.stopped = false) {x : ScanPlace}
    (hx : x.seq = c.cursor) : (c.judge x capacity).WithinRing capacity := by
  rcases judge_cases c x capacity with he | ⟨l, he⟩ <;> rw [he]
  · exact ⟨h.run, by simp, h.built⟩
  · obtain ⟨_, hs, _, _, hb⟩ := take_spec c l x.seq
    have hgo := h.going hn
    refine ⟨?_, fun hstop => ?_, fun e hm => ?_⟩
    · show x.seq + 1 ≤ (c.take l x.seq).startSeq + capacity
      omega
    · have hstop' : ((c.take l x.seq).stopped || decide ((c.take l x.seq).startSeq + capacity ≤ x.seq + 1)) = false := hstop
      have := (Bool.or_eq_false_iff.mp hstop').2
      show x.seq + 1 < (c.take l x.seq).startSeq + capacity
      simpa using this
    · show e.seq < x.seq + 1
      rcases hb e hm with hm | hm
      · have := h.built e hm; omega
      · omega

theorem settle_withinRing {c : Scan} {capacity : Nat} (hc : 0 < capacity) (ho : c.Ordered) (h : c.WithinRing capacity)
    (hn : c.stopped = false) {x : ScanPlace} (hx : x.seq = c.cursor) : (c.settle x capacity).WithinRing capacity := by
  rcases settle_cases c x capacity with ⟨q, hs, he⟩ | ⟨k, hr, rfl, he⟩ <;> rw [he]
  · exact ⟨Nat.le_add_right .., fun _ => Nat.lt_add_of_pos_right hc, by simp [Scan.seekTo, ho.seek hs]⟩
  · exact judge_withinRing (c := { c with phase := .run }) ⟨h.run, h.going, h.built⟩ hn hx

theorem readScan_eng (n : Nat) (s : State) : (State.readScan n s).eng = s.eng := by
  induction n generalizing s with
  | zero => rfl
  | succ n ih =>
    unfold State.readScan
    split
    · rfl
    · split
      · exact (ih _).trans rfl
      · rfl

theorem readScan_moves (n : Nat) (s : State) (state : s.eng.state = .scanning) : Moves s (State.readScan n s) := by
  induction n generalizing s with
  | zero => exact Moves.refl s
  | succ n ih =>
    unfold State.readScan
    split
    · exact Moves.refl s
    · rename_i c hc
      split
      · rename_i h
        have read := (handOwn_moves s .read (s.layout.headerAddr c.readCursor) fullMask (o := .scanHeader c.readCursor) (by simp)).trans
          (handOwn_moves _ .read (s.layout.dataAddr c.readCursor) fullMask (o := .scanData c.readCursor) (by simp))
        have room : (c.places ++ [freshScanPlace c.readCursor]).length ≤ Config.scanPlaces := by
          have := h.2; simp; omega
        have taken := (Move.scan (State.handOwn (State.handOwn s .read (s.layout.headerAddr c.readCursor) fullMask
            (.scanHeader c.readCursor)) .read (s.layout.dataAddr c.readCursor) fullMask (.scanData c.readCursor)) c
          { c with places := c.places ++ [freshScanPlace c.readCursor], readCursor := c.readCursor + 1 } state hc
          (fun hb => ⟨hb.built, hb.table, room⟩) (fun ho => ⟨ho.cursor, ho.built, ho.seek⟩)
          (fun _ hw => ⟨hw.run, hw.going, hw.built⟩)).moves
        exact (read.trans taken).trans (ih _ (by exact state))
      · exact Moves.refl s

theorem settleScan_moves (n : Nat) (s : State) (state : s.eng.state = .scanning) : Moves s (State.settleScan n s) := by
  induction n generalizing s with
  | zero => exact Moves.refl s
  | succ n ih =>
    unfold State.settleScan
    split
    · exact Moves.refl s
    rename_i c hc
    split
    · exact Moves.refl s
    rename_i hn
    split
    · exact Moves.refl s
    rename_i x hx
    have hseq : x.seq = c.cursor := by
      have := List.find?_some hx
      simp at this; exact this.1
    have settled := (Move.scan s c (c.settle x s.layout.capacity) state hc (fun hb => settle_bounded hb x _)
      (fun ho => settle_ordered ho hseq _)
      (fun ho hw => settle_withinRing (capacity_pos _) ho hw (by simpa using hn) hseq)).moves
    have read := readScan_moves Config.scanPlaces { s with scan := some (c.settle x s.layout.capacity) } (by exact state)
    exact (settled.trans read).trans (ih _ (by rw [readScan_eng]; exact state))

theorem failScan_moves (s : State) (result : Nat) : Moves s (s.failScan result) := by
  have cleared := (Move.zero s { s.eng with state := .off, epoch := 0, cause := none, pendingTarget := none }
    { s.ring with head := 0, frontier := 0, tail := 0 } s.watch (.inl rfl) (.inl rfl) rfl rfl rfl).moves
  exact cleared.trans ((touchEmpty_moves _).trans ((Move.scanIdle _).moves.trans ((wake_moves _ Wait.clearedByEngine).trans
    (raise_moves ..))))

theorem raiseDropped_moves (s : State) (c : Scan) : Moves s (s.raiseDropped c) := by
  unfold State.raiseDropped; split
  · exact Moves.refl s
  · exact raise_moves ..

theorem scanState_mem (c : Option Cause) : scanState c ∈ [EngineState.active, .stalled, .broken] := by
  cases c <;> simp [scanState]

theorem raiseDropped_eng (s : State) (c : Scan) : (s.raiseDropped c).eng = s.eng := by
  unfold State.raiseDropped; split <;> simp

theorem concludeScan_moves (s : State) (c : Scan) (state : s.eng.state = .scanning) : Moves s (s.concludeScan c) := by
  have entered := (Move.labels s s.eng.epoch (if c.storedState = 3 then some c.storedTarget else none)).moves.trans
    ((Move.go _ (scanState c.cause) (by simp [state]) (scanState_mem _)).moves.trans (raiseDropped_moves _ c))
  unfold State.concludeScan; dsimp only
  split
  · rename_i h
    have active : scanState c.cause = .active := by rw [h]; rfl
    refine entered.trans ?_
    have full : ∀ a : State, a.eng.state = .active → Moves a
        ((State.enterActive (if c.table.saturated then a.raise .saturated (some c.fullAt) none (some Config.touchPlaces)
          else a).occupancyChanged).requestStatus false).raiseRecovered := by
      intro a ha
      have raised : Moves a (if c.table.saturated then a.raise .saturated (some c.fullAt) none (some Config.touchPlaces) else a) := by
        split
        · exact raise_moves ..
        · exact Moves.refl a
      refine raised.trans ((occupancyChanged_moves _).trans ((enterActive_moves _ ?_).trans ((requestStatus_false_moves _).trans
        (raise_moves ..))))
      split <;> simp [ha]
    exact full _ (by rw [raiseDropped_eng]; exact active)
  · exact entered.trans ((occupancyChanged_moves _).trans ((enterBroken_moves _ _).trans (raise_moves ..)))

theorem segmentStart_of_built (s : State) (c : Scan) (h : c.built ≠ []) :
    ∃ e ∈ c.built, State.segmentStart { s with segments := c.built } = e.seq := by
  unfold State.segmentStart
  cases hl : c.built.getLast? with
  | none => exact absurd (List.getLast?_eq_none_iff.mp hl) h
  | some e => exact ⟨e, List.mem_of_getLast? hl, rfl⟩

/-- A list with an entry is installed (R162, R163). -/
theorem installScan_moves (s : State) (c : Scan) (state : s.eng.state = .scanning) (unit : s.scan = some c) (h : c.built ≠ []) :
    Moves s (s.installScan c) := by
  obtain ⟨e, he, hs⟩ := segmentStart_of_built s c h
  have hinst : s.installScan c = { s with
      ring := { s.ring with head := min c.startSeq e.seq, frontier := c.cursor, tail := c.cursor }, segments := c.built
      touch := c.table, scan := none } := by
    have hne : c.built.isEmpty = false := by simpa using h
    simp only [State.installScan, hne, if_false, Bool.false_eq_true, ← hs]
    rfl
  rw [hinst]
  refine (Move.install s c state unit h _ ?_).moves
  rcases Nat.le_total c.startSeq e.seq with hle | hle
  · exact .inl (Nat.min_eq_left hle)
  · exact .inr ⟨e, he, Nat.min_eq_right hle, hle⟩

theorem installScan_of_empty (s : State) {c : Scan} (h : c.built = []) :
    s.installScan c = { s with
      ring := { s.ring with head := c.startSeq, frontier := c.cursor, tail := c.cursor }, segments := []
      touch := c.table, scan := none } := by
  simp [State.installScan, h]

/-- An empty list in a ring with room takes the RECOVER marker (R164). -/
theorem recoverMark_moves (s : State) (c : Scan) (state : s.eng.state = .scanning) (unit : s.scan = some c) (h : c.built = [])
    (space : (s.installScan c).hasSpace = true) : Moves s (s.installScan c).recoverMark := by
  rw [installScan_of_empty s h] at space ⊢
  have space' : c.cursor - c.startSeq < s.layout.capacity := of_decide_eq_true space
  let mark : Header :=
    { kind := .mark, dup := false, source := .recover, region := 0, epoch := s.eng.epoch, seq := c.cursor, line := 0, tag := 0
      segmentStart := c.cursor }
  exact (Move.installMark s c (headerSlot mark) { seq := c.cursor, tag := 0, source := .recover } state unit space' rfl rfl rfl _
    rfl).moves.trans ((touchEmpty_moves _).trans (handHeader_moves _ _))

theorem endScan_moves (s : State) (state : s.eng.state = .scanning) : Moves s s.endScan := by
  unfold State.endScan
  split
  · exact Moves.refl s
  · rename_i c hc
    dsimp only
    by_cases hb : c.built = []
    · have hempty : (!(s.installScan c).segments.isEmpty) = false := by rw [installScan_of_empty s hb]; rfl
      rw [hempty]
      split
      · simp_all
      split
      · rename_i space
        exact (recoverMark_moves s c state hc hb space).trans (concludeScan_moves _ c (by
          rw [installScan_of_empty s hb]; exact state))
      · rw [installScan_of_empty s hb]
        exact (append_moves s _).trans (failScan_moves { s with port := _ } 4)
    · have hne : (!(s.installScan c).segments.isEmpty) = true := by
        unfold State.installScan; dsimp only; split <;> simp_all
      rw [if_pos hne]
      refine (installScan_moves s c state hc hb).trans (concludeScan_moves _ c ?_)
      unfold State.installScan; dsimp only; split <;> exact state

theorem scanDue_scanning {s : State} (h : s.scanDue = true) : s.eng.state = .scanning := by
  simp [State.scanDue] at h; exact h.1

theorem checkScan_moves (s : State) : Moves s s.checkScan := by
  unfold State.checkScan; split
  · exact endScan_moves s (scanDue_scanning ‹_›)
  · exact Moves.refl s

theorem goOnScan_moves (s : State) (state : s.eng.state = .scanning) : Moves s s.goOnScan :=
  (settleScan_moves _ s state).trans (checkScan_moves _)

/-! ## The status write's response -/

theorem goOn_moves (s : State) : Moves s s.goOn := by
  unfold State.goOn
  split
  · exact Moves.refl s
  · rename_i h
    have returned : s.watch.occasion = .returned := by simpa using h
    split
    · exact openRecord_moves s ‹_› (by simp [returned])
    · exact beginReplay_moves s ‹_›
    · exact closeEpoch_moves s
    all_goals exact Moves.refl s

theorem noteReturn_moves (s : State) : Moves s s.noteReturn :=
  (Move.watch s s.noteReturn.watch fun _ => .inr fun h => by simp [State.noteReturn, h]).moves

theorem closingFault_moves (s : State) : Moves s s.closingFault := by
  unfold State.closingFault; split
  · exact (append_moves s _).trans (closeEpoch_moves { s with port := _ })
  · exact raise_moves ..

theorem statusFault_moves (s : State) : Moves s s.statusFault := by
  unfold State.statusFault
  split
  · exact enterBroken_moves ..
  · exact enterBroken_moves ..
  · split
    · exact openingBroken_moves s ‹_› (by simpa using ‹s.segments.isEmpty = true›)
    · exact enterBroken_moves ..
  · exact abandonRollback_moves s
  · split
    · exact raise_moves ..
    · exact quiesceFault_moves s _ ‹_›
  · exact raise_moves ..
  · exact closingFault_moves s
  all_goals exact Moves.refl s

theorem watch_moves (s : State) (w : Watch) (h : s.watch.occasion = .idle → w.occasion = .idle) : Moves s { s with watch := w } :=
  (Move.watch s w fun _ => .inr h).moves

theorem issuePending_moves (s : State) : Moves s s.issuePending := by
  unfold State.issuePending; dsimp only; split
  · have composed := watch_moves s { s.watch with outstanding := false, updatePending := false } id
    refine composed.trans ((issueStatus_moves _).trans (watch_moves _ _ fun h => ?_))
    dsimp only; rw [h]; rfl
  · exact watch_moves s { s.watch with outstanding := false } id

theorem statusReturned_moves (s : State) (ok : Bool) : Moves s (s.statusReturned ok) := by
  unfold State.statusReturned; split
  · exact watch_moves s _ id
  split
  · exact (noteReturn_moves s).trans ((goOn_moves _).trans (issuePending_moves _))
  · exact (noteReturn_moves s).trans ((statusFault_moves _).trans (issuePending_moves _))

/-! ## The end of an event -/

theorem endSoftReset_moves (s : State) : Moves s s.endSoftReset := by
  have cleared := (Move.zero s { s.eng with state := .off, epoch := 0, cause := none, action := none, pendingTarget := none }
    { head := 0, frontier := 0, tail := 0, highArmed := true, fullReported := false }
    { outstanding := false, updatePending := false, occasion := .idle } (.inl rfl) (.inl rfl) rfl rfl rfl).moves
  refine cleared.trans ((touchEmpty_moves _).trans ((Move.slots _ [] (Nat.zero_le _) (fun q _ h => absurd h (Nat.not_lt_zero q))
    (fun _ _ => by simp [abandonedBusy])).moves.trans ((Move.views _ [] (.inl (Nat.zero_le _))).moves.trans
    ((Move.timers _ { s.timer with counter := 0, phase := 0, markCount := 0 } s.stall).moves.trans
    ((Move.replayIdle _).moves.trans ((Move.scanIdle _).moves.trans ?_))))))
  refine .head (Move.port _ { s.port with
    frame := s.port.frame.map fun f => { f with removesEvent := false }
    events := [], overflow := false } ?_ ?_) (raise_moves ..)
  · exact .inl (Nat.zero_le _)
  · rfl

theorem checkReset_moves (s : State) : Moves s s.checkReset := by
  unfold State.checkReset; split
  · exact endSoftReset_moves s
  · exact Moves.refl s

theorem finish_moves (s : State) : Moves s s.finish :=
  (checkQuiesce_moves s).trans ((settle_moves _).trans (checkReset_moves _))

end Sys2Proof.Machine
end


section
/-! SUPPORT. What a command and a step can do (Machine/Links.lean to Machine/Step.lean): a chain of moves, a configuration command or
a power-on reset. -/

namespace Sys2Proof.Machine

/-! ## Upstream -/

theorem classify_moves (s : State) (r : UpRequest) : Moves s (s.classify r) := by
  unfold State.classify
  split
  · exact answer_moves ..
  split
  · exact answer_moves ..
  split
  · split
    · exact answer_moves ..
    split
    · exact answer_moves ..
    · exact submit_moves ..
  · split
    · exact submit_moves ..
    · exact submit_moves ..

theorem takeRequest_moves (s : State) (r : UpRequest) : Moves s (s.takeRequest r) := by
  unfold State.takeRequest
  split
  · exact raise_moves ..
  · rename_i h
    refine .head (Move.up s { s.up with tags := s.up.tags ++ [r.tag] } fun hn => ?_)
      ((classify_moves _ r).trans (finish_moves _))
    exact hn.append (List.nodup_singleton _) (by simpa using h)

theorem event_moves (s : State) : Moves s s.nextEvent := (Move.event s).moves

theorem execUpstreamRequest_moves (r : UpRequest) {s t : State} (h : execUpstreamRequest r s = .next t) : Moves s t := by
  unfold execUpstreamRequest at h
  split at h <;> cases h
  · exact (event_moves s).trans (takeRequest_moves _ r)
  · exact Moves.refl s

theorem execUpstreamResponseReady_moves {s t : State} (h : execUpstreamResponseReady s = .next t) : Moves s t := by
  unfold execUpstreamResponseReady at h
  split at h <;> cases h
  · exact (event_moves s).trans (Move.up s.nextEvent s.up.sendWaiting fun hn => hn.filter _).moves
  · exact (Move.up s { s.up with respReady := true } id).moves

theorem execResponseReadyWithheld_moves {s t : State} (h : execResponseReadyWithheld s = .next t) : Moves s t := by
  cases h
  exact (Move.up s { s.up with respReady := false } id).moves

/-! ## Issue -/

theorem forwardIssued_moves (s : State) (tag : UpTag) : Moves s (s.forwardIssued tag) := by
  have cleared := pendingForward_moves s (if s.up.pendingForward = some tag then none else s.up.pendingForward)
  unfold State.forwardIssued; dsimp only; split
  · exact cleared.trans (entryIssued_moves _ _)
  · exact cleared

theorem restoreIssued_moves (s : State) (q : Nat) : Moves s (s.restoreIssued q) := by
  unfold State.restoreIssued; split
  · rename_i p hp
    split
    · rename_i state
      exact (replay_moves s { p with cursor := q - 1 } state hp rfl (.inl (Nat.le_refl _))).trans (goOnReplay_moves _ (by exact state))
    · exact Moves.refl s
  · exact Moves.refl s

theorem issuableFrom_mem {ahead l : List DownRequest} {r : DownRequest} (h : r ∈ issuableFrom ahead l) : r ∈ l := by
  induction l generalizing ahead with
  | nil => simp [issuableFrom] at h
  | cons q qs ih =>
    simp only [issuableFrom, List.mem_append] at h
    rcases h with h | h
    · split at h
      · simp at h
      · rw [List.mem_singleton.mp h]; exact List.mem_cons_self
    · exact List.mem_cons_of_mem _ (ih h)

theorem picked_mem {d : DownLink} {pick : Nat} {r : DownRequest} (h : d.picked pick = some r) : r ∈ d.toIssue := by
  unfold DownLink.picked DownLink.issuable at h
  rcases Option.or_eq_some_iff.mp h with h | ⟨_, h⟩
  · exact issuableFrom_mem (List.mem_of_getElem? h)
  · exact issuableFrom_mem (List.mem_of_head? h)

theorem issue_moves (s : State) {r : DownRequest} (h : r ∈ s.down.toIssue) : Moves s (s.issue r) := by
  refine .head (Move.down s { s.down with
    toIssue := s.down.toIssue.filter fun x => x.tag ≠ r.tag, issued := s.down.issued ++ [r] } (fun q hq => .inl ?_)
    fun q hq => .inl (List.mem_filter.mp hq).1) ?_
  · simp only [List.mem_append, List.mem_singleton] at hq ⊢
    rcases hq with hq | hq | rfl
    · exact .inl (List.mem_filter.mp hq).1
    · exact .inr hq
    · exact .inl h
  · unfold State.issue; dsimp only
    split
    · exact forwardIssued_moves ..
    · exact restoreIssued_moves ..
    all_goals exact Moves.refl _

theorem running_moves {s t : State} {f : State → State} (hf : ∀ u : State, Moves u (f u)) (h : s.running f = .next t) : Moves s t := by
  unfold State.running at h
  split at h <;> cases h
  · exact (event_moves s).trans (hf _)
  · exact Moves.refl s

theorem ready_moves (s : State) (b : Bool) : Moves s { s with down := { s.down with ready := b } } :=
  (Move.down s { s.down with ready := b } (fun _ hq => .inl hq) fun _ hq => .inl hq).moves

theorem execDownstreamIssue_moves (a : IssueArgs) {s t : State} (h : execDownstreamIssue a s = .next t) : Moves s t := by
  refine running_moves (fun u => ?_) h
  dsimp only; split
  · rename_i r hr
    have issued := issue_moves { u with down := { u.down with ready := a.ready } } (picked_mem hr)
    exact (ready_moves u a.ready).trans (issued.trans (finish_moves _))
  · exact ready_moves u a.ready

/-! ## Responses -/

theorem slotOf_mem {s : State} {q : Nat} {j : Slot} (h : s.slotOf q = some j) : j ∈ s.slots ∧ j.header.seq = q :=
  ⟨List.mem_of_find?_eq_some h, by simpa using List.find?_some h⟩

theorem forwardReturned_moves (s : State) (q : DownRequest) (r : MemResponse) : Moves s (s.forwardReturned q r) := by
  unfold State.forwardReturned; split <;> exact answer_moves ..

theorem handRecord_moves (s : State) (h : Header) (old : Line) : Moves s (s.handRecord h old) :=
  (handOwn_moves s _ _ _ (by simp)).trans (handOwn_moves _ _ _ _ (by simp))

theorem oldDataReturned_moves (s : State) (q : Nat) (r : MemResponse) : Moves s (s.oldDataReturned q r) := by
  unfold State.oldDataReturned
  split
  · exact Moves.refl s
  · rename_i j hj
    split
    · exact freeAbandoned_setSlot_moves s q (fun j => { j with oldData := .discarded }) fun _ => ⟨rfl, rfl⟩
    · rename_i hk
      have kept : ∃ k ∈ s.slots, k.abandoned = false := ⟨j, (slotOf_mem hj).1, by simpa using hk⟩
      split
      · exact (setSlot_moves s q
          (fun j => { j with oldData := .image r.data, headerWrite := .outstanding, dataWrite := .outstanding })
          (fun _ => ⟨rfl, rfl⟩) kept).trans (handRecord_moves ..)
      · exact (setSlot_moves s q (fun j => { j with oldData := .discarded }) (fun _ => ⟨rfl, rfl⟩) kept).trans
          (journalFault_moves ..)

theorem recordReturned_moves (s : State) (q : Nat) (note : Slot → Slot) (r : MemResponse)
    (hn : ∀ j, (note j).header = j.header ∧ (note j).abandoned = j.abandoned) : Moves s (s.recordReturned q note r) := by
  unfold State.recordReturned
  split
  · exact Moves.refl s
  · rename_i j hj
    split
    · exact freeAbandoned_setSlot_moves s q _ hn
    · rename_i hk
      have kept : ∃ k ∈ s.slots, k.abandoned = false := ⟨j, (slotOf_mem hj).1, by simpa using hk⟩
      split
      · exact (setSlot_moves s q _ hn kept).trans (advanceFrontier_moves _)
      · exact (setSlot_moves s q _ hn kept).trans (journalFault_moves ..)

theorem viewReturned_moves (s : State) (r : MemResponse) : Moves s (s.viewReturned r) := by
  unfold State.viewReturned
  split
  · exact Moves.refl s
  · rename_i p _
    dsimp only
    have placesFreed : ∀ t : State, t.views = s.views →
        Moves t (State.wake { t with views := s.views.filter fun x => x.internalTag ≠ r.tag } fun w => decide (w = .place)) := by
      intro t ht
      refine (Move.views t _ (.inl ?_)).moves.trans (wake_moves _ _)
      rw [ht]; exact List.length_filter_le ..
    split
    · exact (answer_moves ..).trans (placesFreed _ rfl)
    · exact (answer_moves ..).trans (placesFreed _ rfl)

theorem replayReturned_moves (s : State) (q : Nat) (note : ReplayPlace → ReplayPlace) : Moves s (s.replayReturned q note) := by
  unfold State.replayReturned; split
  · rename_i p hp
    split
    · rename_i state
      exact (replay_moves s { p with places := p.places.map fun x => if x.seq = q then note x else x } state hp rfl
        (.inl (by simp))).trans (goOnReplay_moves _ (by exact state))
    · exact Moves.refl s
  · exact Moves.refl s

theorem restoreReturned_moves (s : State) (q : Nat) (r : MemResponse) : Moves s (s.restoreReturned q r) := by
  unfold State.restoreReturned; split
  · rename_i p hp
    split
    · rename_i state
      dsimp only
      refine (replay_moves s { p with
        places := p.places.filter fun x => x.seq ≠ q
        replayed := p.replayed + (responseOk r).toNat
        faults := p.faults + (!responseOk r).toNat } state hp rfl (.inl (List.length_filter_le ..))).trans ?_
      exact (readReplay_moves 1 _ (by exact state)).trans (goOnReplay_moves _ (by rw [readReplay_eng]; exact state))
    · exact Moves.refl s
  · exact Moves.refl s

theorem scanReturned_moves (s : State) (q : Nat) (note : ScanPlace → ScanPlace) : Moves s (s.scanReturned q note) := by
  unfold State.scanReturned; split
  · rename_i c hc
    split
    · rename_i state
      dsimp only
      have room : ((c.places.map fun x => if x.seq = q then note x else x).filter fun x =>
          x.reading || decide (c.cursor ≤ x.seq)).length ≤ c.places.length :=
        Nat.le_trans (List.length_filter_le ..) (by simp)
      refine .head (Move.scan s c
        { c with places := (c.places.map fun x => if x.seq = q then note x else x).filter fun x =>
            (x.reading || decide (c.cursor ≤ x.seq)) } state hc (fun hb => ⟨hb.built, hb.table, Nat.le_trans room hb.places⟩)
        (fun ho => ⟨ho.cursor, ho.built, ho.seek⟩) (fun _ hw => ⟨hw.run, hw.going, hw.built⟩)) ?_
      exact (readScan_moves _ _ (by exact state)).trans (goOnScan_moves _ (by rw [readScan_eng]; exact state))
    · exact Moves.refl s
  · exact Moves.refl s

theorem startReadReturned_moves (s : State) (r : MemResponse) : Moves s (s.startReadReturned r) := by
  unfold State.startReadReturned
  split
  · exact Moves.refl s
  · rename_i h
    have opening : s.eng.state = .opening := by simpa using h
    split
    · refine (Move.labels s (nextEpoch (.ofNat 32 (lineField r.data 32 4))) s.eng.pendingTarget).moves.trans ?_
      exact openingStep1_moves _ (by exact opening)
    · have emptied := (Move.zero s { s.eng with state := .off, epoch := 0 } { s.ring with head := 0, frontier := 0, tail := 0 } s.watch
        (.inl rfl) (.inr ⟨opening, rfl⟩) rfl rfl rfl).moves
      exact emptied.trans ((touchEmpty_moves _).trans ((Move.timers _ s.timer.beforeStart s.stall).moves.trans
        ((wake_moves _ Wait.clearedByEngine).trans (raise_moves ..))))

theorem scanOf_bounded (d : Line) : (scanOf d).Bounded := ⟨Nat.zero_le _, Nat.zero_le _, Nat.zero_le _⟩

theorem scanOf_ordered (d : Line) : (scanOf d).Ordered := ⟨Nat.le_refl _, by simp [scanOf], fun _ => rfl⟩

theorem scanOf_withinRing (d : Line) {n : Nat} (h : 0 < n) : (scanOf d).WithinRing n :=
  ⟨Nat.le_add_right .., fun _ => Nat.lt_add_of_pos_right h, by simp [scanOf]⟩

theorem recoverReadReturned_moves (s : State) (r : MemResponse) : Moves s (s.recoverReadReturned r) := by
  unfold State.recoverReadReturned
  split
  · exact Moves.refl s
  · rename_i h
    have scanning : s.eng.state = .scanning := by simpa using h
    split
    · exact failScan_moves ..
    · refine (Move.labels s (scanOf r.data).epoch s.eng.pendingTarget).moves.trans ?_
      refine .head (Move.beginScan _ (scanOf r.data) scanning (scanOf_bounded _) (scanOf_ordered _)
        fun _ => scanOf_withinRing _) ?_
      exact readScan_moves _ _ (by exact scanning)

theorem deliver_moves (s : State) (q : DownRequest) (r : MemResponse) : Moves s (s.deliver q r) := by
  unfold State.deliver
  split
  · exact forwardReturned_moves ..
  · exact oldDataReturned_moves ..
  · exact recordReturned_moves s _ (fun j => { j with headerWrite := .acknowledged }) r fun _ => ⟨rfl, rfl⟩
  · exact recordReturned_moves s _ (fun j => { j with dataWrite := .acknowledged }) r fun _ => ⟨rfl, rfl⟩
  · exact statusReturned_moves ..
  · exact startReadReturned_moves ..
  · exact recoverReadReturned_moves ..
  · exact viewReturned_moves ..
  · exact replayReturned_moves ..
  · exact replayReturned_moves ..
  · exact restoreReturned_moves ..
  · exact scanReturned_moves ..
  · exact scanReturned_moves ..

theorem memoryResponse_moves (r : MemResponse) {s t : State} (h : s.memoryResponse r = .next t) : Moves s t := by
  unfold State.memoryResponse at h
  split at h
  · cases h; exact Moves.refl s
  split at h
  · cases h
    exact (event_moves s).trans ((freeTag_moves _ _).trans ((deliver_moves _ _ _).trans (finish_moves _)))
  · split at h <;> cases h
    exact event_moves s

/-! ## The management port -/

theorem unlessResetting_moves (s : State) (n : Nat) {t : State} (h : s.eng.state ≠ .resetting → Moves s t) :
    Moves s (s.unlessResetting n t) := by
  unfold State.unlessResetting; split
  · exact reply_moves ..
  · exact h ‹_›

theorem inOff_moves (s : State) {t : State} (h : s.eng.state = .off → Moves s t) : Moves s (s.inOff t) := by
  refine unlessResetting_moves s 0 fun _ => ?_
  split
  · exact h ‹_›
  · exact reply_moves ..

theorem frame_moves (s : State) (f : Option Frame) : Moves s { s with port := { s.port with frame := f } } :=
  (Move.port s { s.port with frame := f } (.inl (Nat.le_refl _)) rfl).moves

theorem pop_moves (s : State) (dataBytes : Nat) : Moves s { s with port := s.port.endFrame dataBytes } := by
  refine (Move.port s _ (.inl ?_) ?_).moves <;> unfold Port.endFrame <;> dsimp only <;> split <;> (try split) <;>
    simp [Port.pop]

theorem timer_moves (s : State) (m : MarkTimer) : Moves s { s with timer := m } := (Move.timers s m s.stall).moves

theorem execSetTimer_moves (tick : Byte) (compare : BitVec 16) (enable : Byte) {s t : State}
    (h : execSetTimer tick compare enable s = .next t) : Moves s t := by
  refine running_moves (fun u => unlessResetting_moves u 0 fun _ => ?_) h
  split
  · exact reply_moves ..
  · exact (timer_moves u _).trans (reply_moves ..)

theorem execReadRegion_moves (i : Byte) {s t : State} (h : execReadRegion i s = .next t) : Moves s t := by
  refine running_moves (fun u => unlessResetting_moves u 9 fun _ => ?_) h
  split <;> exact reply_moves ..

/-! ## Engine commands -/

theorem acceptStart_moves (s : State) (h : s.eng.state = .off) : Moves s s.acceptStart := by
  unfold State.acceptStart; split
  · exact (Move.start s { s.eng with state := .opening, epoch := 1, opener := .start } h rfl rfl).moves.trans
      ((timer_moves _ s.timer.atStart).trans ((handOwn_moves _ _ _ _ (by simp)).trans (reply_moves ..)))
  · exact reply_moves ..

theorem acceptRecover_moves (s : State) (h : s.eng.state = .off) : Moves s s.acceptRecover := by
  unfold State.acceptRecover; split
  · exact (Move.recover s { s.eng with state := .scanning, epoch := 1 } (scanOf 0) h rfl rfl (scanOf_bounded _) (scanOf_ordered _)
      fun _ => scanOf_withinRing _).moves.trans ((handOwn_moves _ _ _ _ (by simp)).trans (reply_moves ..))
  · exact reply_moves ..

theorem beginQuiesce_moves (s : State) (a : Action) (state : s.eng.state ∈ [EngineState.active, .stalled, .broken])
    (target : ∀ m, a = .rollback m → s.eng.state ≠ .broken ∧
      (m = s.segmentStart ∨ (m = 0 ∧ s.ring.head = 0) ∨ ∃ e ∈ s.segments, e.seq = m)) : Moves s (s.beginQuiesce a) :=
  (Move.quiesce s a state target).moves.trans (Move.timers _ s.timer none).moves

theorem quiesceCommand_moves (s : State) (a : Action) (h : ∀ m, a ≠ .rollback m) : Moves s (s.quiesceCommand a) := by
  have begun : s.eng.state ∈ [EngineState.active, .stalled, .broken] →
      Moves s ((s.beginQuiesce a).reply .accepted []).finish := fun state =>
    (beginQuiesce_moves s a state fun m hm => absurd hm (h m)).trans ((reply_moves ..).trans (finish_moves _))
  unfold State.quiesceCommand
  split
  any_goals exact reply_moves ..
  all_goals exact begun (by simp [*])

theorem markCommand_moves (s : State) (tag : MarkTag) : Moves s (s.markCommand tag) := by
  unfold State.markCommand; split
  · exact (acceptMark_moves s _ _ ‹_›).trans (reply_moves ..)
  · exact reply_moves ..

theorem rollbackTarget_listed {s : State} {kind q m : Nat} (h : s.rollbackTarget kind q = some m) :
    m = s.segmentStart ∨ (m = 0 ∧ s.ring.head = 0) ∨ ∃ e ∈ s.segments, e.seq = m := by
  unfold State.rollbackTarget at h
  split at h
  · cases h; exact .inl rfl
  · split at h <;> cases h
    rename_i h0
    exact .inr (.inl ⟨rfl, h0.1⟩)
  · split at h <;> cases h
    rename_i hany
    obtain ⟨e, he, hs⟩ := List.any_eq_true.mp hany
    exact .inr (.inr ⟨e, he, by simpa using hs⟩)

theorem tryRollback_moves (s : State) (kind q : Nat) (state : s.eng.state ∈ [EngineState.active, .stalled]) :
    Moves s (s.tryRollback kind q) := by
  have sub : s.eng.state ∈ [EngineState.active, .stalled, .broken] ∧ s.eng.state ≠ .broken := by
    simp at state; rcases state with h | h <;> simp [h]
  unfold State.tryRollback
  split
  · exact reply_moves ..
  split
  · exact reply_moves ..
  · rename_i m hm
    split
    · exact reply_moves ..
    · refine (beginQuiesce_moves s _ sub.1 fun k hk => ⟨sub.2, ?_⟩).trans ((reply_moves ..).trans (finish_moves _))
      cases hk; exact rollbackTarget_listed hm

theorem execRollback_moves (kind : Byte) (seq : BitVec 64) {s t : State} (h : execRollback kind seq s = .next t) : Moves s t := by
  refine running_moves (fun u => ?_) h
  split
  any_goals exact reply_moves ..
  all_goals exact tryRollback_moves u _ _ (by simp [*])

/-- Answering requests changes the upstream link alone. -/
theorem foldl_answer (l : List UpTag) (st : LinkStatus) (d : Option Line) (s : State) :
    l.foldl (fun t tag => t.answer tag st d) s = { s with up := (l.foldl (fun t tag => t.answer tag st d) s).up } := by
  induction l generalizing s with
  | nil => rfl
  | cons a as ih => exact (ih (s.answer a st d)).trans rfl

theorem beginSoftReset_moves (s : State) : Moves s s.beginSoftReset := by
  have answered := foldl_moves (fun t tag => t.answer tag .aborted none) (fun t tag => answer_moves t tag _ _) s.abortedTags s
  unfold State.beginSoftReset; dsimp only
  rw [foldl_answer] at answered ⊢
  exact answered.trans ((Move.softReset _).moves.trans ((Move.timers _ s.timer none).moves.trans
    ((flags_moves _ s.ring.highArmed false).trans ((occasionIdle_moves _).trans (Move.aborted _ s.abortedTags.length).moves))))

/-! ## The timers and the pins -/

theorem markExpiry_moves (s : State) : Moves s s.markExpiry := (timer_moves s _).trans (requestMark_moves _ _ _)

theorem stallExpiry_moves (s : State) (h : s.eng.state = .stalled) : Moves s s.stallExpiry :=
  (setEngine_moves s .broken (by simp [h]) (by simp)).trans ((raise_moves ..).trans (enterBroken_moves _ _))

theorem tickStall_moves (s : State) : Moves s s.tickStall := by
  unfold State.tickStall; split
  · exact Moves.refl s
  split
  · exact (stallExpiry_moves s (by simp_all)).trans (finish_moves _)
  · exact (Move.timers s s.timer _).moves

theorem tickMark_moves (s : State) : Moves s s.tickMark := by
  unfold State.tickMark
  split
  · exact Moves.refl s
  split
  · exact timer_moves s _
  split
  · exact timer_moves s _
  · exact markExpiry_moves s

theorem tick_moves (s : State) : Moves s s.tick := by
  unfold State.tick; split
  · exact (event_moves s).trans ((tickStall_moves _).trans (tickMark_moves _))
  · exact Moves.refl s

/-! ## The commands -/

/-- What the configuration commands and the power-on reset can do: each changes its own setting, the three of OFF there alone. -/
inductive Configures (s t : State) : Instr → Prop where
  | layout (a : LayoutArgs) (l : Layout) (off : s.eng.state = .off) (rest : Moves { s with layout := l } t) :
      Configures s t (.setLayout a)
  | addressing (f : BitVec 16) (v : Byte) (a : Addressing) (off : s.eng.state = .off) (rest : Moves { s with addressing := a } t) :
      Configures s t (.setAddressing f v)
  | region (a : RegionArgs) (l : Vector Region 16) (off : s.eng.state = .off) (rest : Moves { s with regions := l } t) :
      Configures s t (.writeRegion a)
  | mask (m : BitVec 16) (rest : Moves { s with port := { s.port with mask := m } } t) : Configures s t (.setEventMask m)
  | reset (fresh : t = { State.reset with
      up := { State.reset.up with respReady := s.up.respReady, sent := s.up.sent }
      down := { State.reset.down with ready := s.down.ready }, eventNo := s.eventNo + 1, pending := s.pending }) :
      Configures s t .powerOnReset

/-- A command taken in OFF alone either carries out `f` there or answers. -/
theorem running_inOff_cases {s t : State} {f : State → State} (h : s.running (fun u => u.inOff (f u)) = .next t) :
    Moves s t ∨ (s.eng.state = .off ∧ t = f s.nextEvent) := by
  unfold State.running at h
  split at h
  · cases h
    unfold State.inOff State.unlessResetting
    dsimp only
    split
    · exact .inl ((event_moves s).trans (reply_moves ..))
    split
    · exact .inr ⟨‹_›, rfl⟩
    · exact .inl ((event_moves s).trans (reply_moves ..))
  · cases h; exact .inl (Moves.refl s)

theorem answered_moves (s : State) (res : MgmtResult) (data : List Byte) : Moves s (s.nextEvent.reply res data) :=
  (event_moves s).trans (reply_moves ..)

theorem execSetLayout_moves (a : LayoutArgs) {s t : State} (h : execSetLayout a s = .next t) :
    Moves s t ∨ Configures s t (.setLayout a) := by
  rcases running_inOff_cases h with h | ⟨off, rfl⟩
  · exact .inl h
  · split
    · exact .inl (answered_moves ..)
    · rename_i l _
      refine .inr (.layout a l off ((flags_moves _ true s.ring.fullReported).trans ?_))
      exact answered_moves { s with layout := l, ring := { s.ring with highArmed := true } } .accepted []

theorem execSetAddressing_moves (f : BitVec 16) (v : Byte) {s t : State} (h : execSetAddressing f v s = .next t) :
    Moves s t ∨ Configures s t (.setAddressing f v) := by
  rcases running_inOff_cases h with h | ⟨off, rfl⟩
  · exact .inl h
  · split
    · exact .inl (answered_moves ..)
    · rename_i a _
      split
      · exact .inl (answered_moves ..)
      · exact .inr (.addressing f v a off (answered_moves { s with addressing := a } .accepted []))

theorem execWriteRegion_moves (a : RegionArgs) {s t : State} (h : execWriteRegion a s = .next t) :
    Moves s t ∨ Configures s t (.writeRegion a) := by
  rcases running_inOff_cases h with h | ⟨off, rfl⟩
  · exact .inl h
  · split
    · rename_i hi
      split
      · exact .inl (answered_moves ..)
      · rename_i r _
        exact .inr (.region a (s.regions.set a.index.toNat r hi) off
          (answered_moves { s with regions := s.regions.set a.index.toNat r hi } .accepted []))
    · exact .inl (answered_moves ..)

theorem execSetEventMask_moves (m : BitVec 16) {s t : State} (h : execSetEventMask m s = .next t) :
    Moves s t ∨ Configures s t (.setEventMask m) := by
  unfold execSetEventMask State.running at h
  split at h <;> cases h
  · unfold State.unlessResetting; dsimp only; split
    · exact .inl (answered_moves ..)
    · exact .inr (.mask m (answered_moves { s with port := { s.port with mask := m } } .accepted []))
  · exact .inl (Moves.refl s)

/-- An internal event does its work where it is due, and is only counted elsewhere. -/
theorem due_moves {s t : State} (due : State → Prop) [DecidablePred due] (f : State → State)
    (hf : ∀ u, due u → Moves u (f u)) (h : (s.running fun u => if due u then f u else u) = .next t) : Moves s t := by
  refine running_moves (fun u => ?_) h
  split
  · exact hf u ‹_›
  · exact Moves.refl u

/-- What a command can do. -/
theorem exec_moves (c : Instr) {s t : State} (h : exec c s = .next t) : Moves s t ∨ Configures s t c := by
  cases c with
  | setLayout a => exact execSetLayout_moves a h
  | setAddressing f v => exact execSetAddressing_moves f v h
  | writeRegion a => exact execWriteRegion_moves a h
  | setEventMask m => exact execSetEventMask_moves m h
  | powerOnReset => cases h; exact .inr (.reset rfl)
  | upstreamRequest r => exact .inl (execUpstreamRequest_moves r h)
  | upstreamResponseReady => exact .inl (execUpstreamResponseReady_moves h)
  | responseReadyWithheld => exact .inl (execResponseReadyWithheld_moves h)
  | downstreamIssue a => exact .inl (execDownstreamIssue_moves a h)
  | forwardedResponse r | oldDataResponse r | recordWriteAck r | statusWriteResponse r | startControlReadResponse r
  | recoverControlReadResponse r | viewReaderResponse r | replayReadResponse r | restoringWriteAck r | scanReadResponse r
  | strayResponse r => exact .inl (memoryResponse_moves r h)
  | markTimerExpiry => exact .inl (due_moves (·.markRunning = true) State.markExpiry (fun u _ => markExpiry_moves u) h)
  | stallTimerExpiry =>
    exact .inl (due_moves (·.eng.state = .stalled) (·.stallExpiry.finish)
      (fun u stalled => (stallExpiry_moves u stalled).trans (finish_moves _)) h)
  | frameEnd n => exact .inl (running_moves (fun u => pop_moves u n) h)
  | readId | readSegments => exact .inl (running_moves (fun u => unlessResetting_moves u _ fun _ => reply_moves ..) h)
  | readStatus => exact .inl (running_moves (fun u => reply_moves ..) h)
  | readEvent => exact .inl (running_moves (fun u => unlessResetting_moves u _ fun _ => frame_moves ..) h)
  | readRegion i => exact .inl (execReadRegion_moves i h)
  | setTimer p c e => exact .inl (execSetTimer_moves p c e h)
  | start => exact .inl (running_moves (fun u => inOff_moves u (acceptStart_moves u)) h)
  | recover => exact .inl (running_moves (fun u => inOff_moves u (acceptRecover_moves u)) h)
  | commit | stop => exact .inl (running_moves (fun u => quiesceCommand_moves u _ (by simp)) h)
  | mark tag => exact .inl (running_moves (fun u => unlessResetting_moves u _ fun _ => markCommand_moves u tag) h)
  | rollback k q => exact .inl (execRollback_moves k q h)
  | softReset =>
    exact .inl (running_moves (fun u => unlessResetting_moves u _ fun _ =>
      (beginSoftReset_moves u).trans ((reply_moves ..).trans (finish_moves _))) h)
  | unknown code => exact .inl (running_moves (fun u => reply_moves ..) h)
  | openRecordAssign =>
    refine .inl (due_moves (·.openDue = true) State.openRecord (fun u due => ?_) h)
    simp [State.openDue] at due
    exact openRecord_moves u due.1 (by simp [due.2])
  | quiesceEnd => exact .inl (due_moves (·.quiesceDue = true) State.endQuiesce (fun u due => endQuiesce_moves u (quiesceDue_iff.mp due).1) h)
  | replayStart =>
    refine .inl (due_moves (·.replayDue = true) (·.beginReplay.finish) (fun u due => ?_) h)
    simp [State.replayDue] at due
    exact (beginReplay_moves u due.1).trans (finish_moves _)
  | rollbackEnd =>
    exact .inl (due_moves (·.rollbackDue = true) (·.endRollback.finish)
      (fun u due => (endRollback_moves u (rollbackDue_rolling due)).trans (finish_moves _)) h)
  | closingEnd =>
    exact .inl (due_moves (·.closingDue = true) (·.closeEpoch.finish)
      (fun u _ => (closeEpoch_moves u).trans (finish_moves _)) h)
  | scanEnd =>
    exact .inl (due_moves (·.scanDue = true) (·.endScan.finish)
      (fun u due => (endScan_moves u (scanDue_scanning due)).trans (finish_moves _)) h)
  | softResetEnd => exact .inl (due_moves (·.resetDue = true) State.endSoftReset (fun u _ => endSoftReset_moves u) h)
  | rstnFalls => cases h; exact .inl ((Move.pin s false).moves.trans (frame_moves _ none))

end Sys2Proof.Machine
end


section
/-! SUPPORT. Every step keeps the capacities, the tag laws and the order of the indices (R9, R23, R38, R62, R172, R178). -/

namespace Sys2Proof.Machine

/-- A state with other settings and another queue of commands. -/
def State.withSettings (s : State) (p : List Instr) (l : Layout) (a : Addressing) (r : Vector Region 16) (m : BitVec 16) : State :=
  { s with pending := p, layout := l, addressing := a, regions := r, port := { s.port with mask := m } }

/-- The state that a power-on reset in `s` leaves. -/
def State.poweredOn (s : State) : State :=
  { State.reset with
    up := { State.reset.up with respReady := s.up.respReady, sent := s.up.sent }
    down := { State.reset.down with ready := s.down.ready }, eventNo := s.eventNo + 1, pending := s.pending }

/-- What no move can break, and no setting but a layout outside OFF, and what a power-on reset brings about, no step can break. -/
theorem step_keeps {P : State → Prop} (moves : ∀ s t, Move s t → P s → P t)
    (settings : ∀ (s : State) p l a r m, s.eng.state = .off ∨ l = s.layout → P s → P (s.withSettings p l a r m))
    (reset : ∀ s : State, P s.poweredOn) {s t : State} (hs : P s) (h : step s = .next t) : P t := by
  unfold step at h
  split at h
  · cases h; exact (tick_moves s).keeps moves hs
  · rename_i c rest _
    have hp : P { s with pending := rest } := settings s rest s.layout s.addressing s.regions s.port.mask (.inr rfl) hs
    generalize { s with pending := rest } = u at h hp
    rcases exec_moves c h with m | m
    · exact m.keeps moves hp
    · cases m with
      | layout a l off m => exact m.keeps moves (settings u u.pending l u.addressing u.regions u.port.mask (.inl off) hp)
      | addressing f v a off m => exact m.keeps moves (settings u u.pending u.layout a u.regions u.port.mask (.inr rfl) hp)
      | region a l off m => exact m.keeps moves (settings u u.pending u.layout u.addressing l u.port.mask (.inr rfl) hp)
      | mask m m => exact m.keeps moves (settings u u.pending u.layout u.addressing u.regions _ (.inr rfl) hp)
      | reset fresh => exact fresh ▸ reset u

theorem poweredOn_bounded (s : State) : s.poweredOn.Bounded := by
  constructor <;> simp [State.poweredOn, State.reset]

theorem poweredOn_linksSound (s : State) : s.poweredOn.LinksSound := by
  constructor <;> simp [State.poweredOn, State.reset]

theorem poweredOn_ordered (s : State) : s.poweredOn.Ordered := by
  constructor <;> simp [State.poweredOn, State.reset, State.segmentStart]

theorem poweredOn_withinRing (s : State) : s.poweredOn.WithinRing := by
  constructor <;> simp [State.poweredOn, State.reset]

/-- SET_LAYOUT may change C, in OFF alone, where H, F and T are 0 (R136). -/
theorem State.WithinRing.withSettings {s : State} (h : s.WithinRing) (p : List Instr) (l : Layout) (a : Addressing)
    (r : Vector Region 16) (m : BitVec 16) (hl : s.eng.state = .off ∨ l = s.layout) : (s.withSettings p l a r m).WithinRing := by
  rcases hl with off | rfl
  · obtain ⟨head, frontier, tail⟩ := h.off off
    refine ⟨by simp [State.withSettings, tail], h.inFlight, h.covered, h.sound, h.listed, ?_, ?_, ?_, h.off, h.opening⟩
    all_goals exact fun hc => by simp [State.withSettings, off] at hc
  · exact ⟨h.held, h.inFlight, h.covered, h.sound, h.listed, h.action, h.rolling, h.scan, h.off, h.opening⟩

theorem step_keeps_bounded {s t : State} (hs : s.Bounded) (h : step s = .next t) : t.Bounded :=
  step_keeps (fun _ _ m => m.keeps_bounded)
    (fun _ _ _ _ _ _ _ b => ⟨b.hold, b.slots, b.segments, b.touch, b.views, b.events, b.replay, b.scan⟩) poweredOn_bounded hs h

theorem step_keeps_linksSound {s t : State} (hs : s.LinksSound) (h : step s = .next t) : t.LinksSound :=
  step_keeps (fun _ _ m => m.keeps_linksSound) (fun _ _ _ _ _ _ _ l => ⟨l.tags, l.classes, l.handed⟩) poweredOn_linksSound hs h

theorem State.Ordered.withSettings {s : State} (h : s.Ordered) (p : List Instr) (l : Layout) (a : Addressing)
    (r : Vector Region 16) (m : BitVec 16) : (s.withSettings p l a r m).Ordered :=
  ⟨h.headFrontier, h.frontierTail, h.listed, h.start, h.action, h.rolling, h.scan⟩

theorem step_keeps_ordered {s t : State} (hs : s.Ordered) (h : step s = .next t) : t.Ordered :=
  step_keeps (fun _ _ m => m.keeps_ordered) (fun _ p l a r m _ o => o.withSettings p l a r m) poweredOn_ordered hs h

theorem step_keeps_resettingQuiet {s t : State} (hs : s.ResettingQuiet) (h : step s = .next t) : t.ResettingQuiet :=
  step_keeps (fun _ _ m => m.keeps_resettingQuiet) (fun _ _ _ _ _ _ _ q => q)
    (fun _ => by simp [State.ResettingQuiet, State.poweredOn, State.reset]) hs h

/-- The distances of the indices rest on their order and on the capacities. -/
def State.Indexed (s : State) : Prop := s.Ordered ∧ s.Bounded ∧ s.WithinRing

theorem step_keeps_indexed {s t : State} (hs : s.Indexed) (h : step s = .next t) : t.Indexed := by
  refine step_keeps ?_ ?_ ?_ hs h
  · intro s t m ⟨ordered, bounded, within⟩
    exact ⟨m.keeps_ordered ordered, m.keeps_bounded bounded, m.keeps_withinRing ordered bounded within⟩
  · intro s p l a r m hl ⟨ordered, b, within⟩
    exact ⟨ordered.withSettings p l a r m, ⟨b.hold, b.slots, b.segments, b.touch, b.views, b.events, b.replay, b.scan⟩,
      within.withSettings p l a r m hl⟩
  · exact fun s => ⟨poweredOn_ordered s, poweredOn_bounded s, poweredOn_withinRing s⟩

/-- Settles O57: every move keeps the capacities and the tag laws. -/
theorem stepKeepsBounded : Obligations.StepKeepsBounded :=
  ⟨fun _ _ => step_keeps_bounded, fun _ _ => step_keeps_linksSound⟩

/-- Settles O58: every move keeps the order of the indices, and with the capacities their distances. -/
theorem stepKeepsOrdered : Obligations.StepKeepsOrdered :=
  ⟨fun _ _ => step_keeps_ordered, fun _ _ ordered bounded within h => (step_keeps_indexed ⟨ordered, bounded, within⟩ h).2.2⟩

/-- What no move changes: the settings and the queue of commands. -/
theorem Move.keeps_settings {s t : State} (m : Move s t) :
    t.layout = s.layout ∧ t.addressing = s.addressing ∧ t.regions = s.regions ∧ t.port.mask = s.port.mask ∧ t.pending = s.pending := by
  cases m with
  | port p events mask => exact ⟨rfl, rfl, rfl, mask, rfl⟩
  | _ => exact ⟨rfl, rfl, rfl, rfl, rfl⟩

theorem Moves.keeps_settings {s t : State} (m : Moves s t) :
    t.layout = s.layout ∧ t.addressing = s.addressing ∧ t.regions = s.regions ∧ t.port.mask = s.port.mask ∧ t.pending = s.pending :=
  m.keeps (P := fun u => u.layout = s.layout ∧ u.addressing = s.addressing ∧ u.regions = s.regions ∧ u.port.mask = s.port.mask ∧
    u.pending = s.pending)
    (fun _ _ m ⟨l, a, r, k, p⟩ => by
      obtain ⟨l', a', r', k', p'⟩ := m.keeps_settings
      exact ⟨l'.trans l, a'.trans a, r'.trans r, k'.trans k, p'.trans p⟩) ⟨rfl, rfl, rfl, rfl, rfl⟩

/-- Settles O18: no move changes a setting, and each configuration command changes its own. -/
theorem configurationFrame : Obligations.ConfigurationFrame := by
  intro c s t h notReset
  rcases exec_moves c h with m | m
  · obtain ⟨l, a, r, k, _⟩ := m.keeps_settings
    exact ⟨fun _ => l, fun _ => a, fun _ => r, fun _ => k⟩
  cases m with
  | layout _ _ off m =>
    obtain ⟨_, a, r, k, _⟩ := m.keeps_settings
    exact ⟨by simp [off], fun _ => a, fun _ => r, fun _ => k⟩
  | addressing _ _ _ off m =>
    obtain ⟨l, _, r, k, _⟩ := m.keeps_settings
    exact ⟨fun _ => l, by simp [off], fun _ => r, fun _ => k⟩
  | region _ _ off m =>
    obtain ⟨l, a, _, k, _⟩ := m.keeps_settings
    exact ⟨fun _ => l, fun _ => a, by simp [off], fun _ => k⟩
  | mask _ m =>
    obtain ⟨l, a, r, _, _⟩ := m.keeps_settings
    exact ⟨fun _ => l, fun _ => a, fun _ => r, by simp⟩
  | reset => exact absurd rfl notReset

end Sys2Proof.Machine
end


section
/-! SUPPORT. Every command completes (R179), and the state right after reset (R194). -/

namespace Sys2Proof.Machine

theorem ite_completes (p : Prop) [Decidable p] (a b : State) :
    ∃ t, (if p then .next a else .next b : Host.Outcome State Fault Refusal) = .next t := by
  split
  · exact ⟨_, rfl⟩
  · exact ⟨_, rfl⟩

/-- Every command that delivers no response completes. -/
theorem exec_completes {c : Instr} (h : responseOf c = none) (s : State) : ∃ t, exec c s = .next t := by
  cases c with
  | responseReadyWithheld | powerOnReset | rstnFalls => exact ⟨_, rfl⟩
  | forwardedResponse r | oldDataResponse r | recordWriteAck r | statusWriteResponse r | startControlReadResponse r
  | recoverControlReadResponse r | viewReaderResponse r | replayReadResponse r | restoringWriteAck r | scanReadResponse r
  | strayResponse r => simp [responseOf] at h
  | _ => exact ite_completes _ _ _

/-- A response is delivered, is a stray, or answers a request that memory has not taken. -/
theorem memoryResponse_completes (s : State) (r : MemResponse)
    (h : s.rstn = false ∨ s.down.issuedWith r.tag ≠ none ∨ s.down.inUse r.tag = false) : ∃ t, s.memoryResponse r = .next t := by
  by_cases low : s.rstn = false
  · exact ⟨s, memoryResponse_of_low low⟩
  have high : s.rstn = true := by simpa using low
  cases issued : s.down.issuedWith r.tag with
  | some q => exact ⟨_, memoryResponse_of_issued high issued⟩
  | none => exact ⟨_, memoryResponse_of_stray high issued (by simpa [low, issued] using h)⟩

theorem exec_keeps_pending {c : Instr} {s t : State} (h : exec c s = .next t) : t.pending = s.pending := by
  rcases exec_moves c h with m | m
  · exact m.keeps_settings.2.2.2.2
  · cases m with
    | layout _ _ _ m | addressing _ _ _ _ m | region _ _ _ m | mask _ m => exact m.keeps_settings.2.2.2.2
    | reset fresh => rw [fresh]

/-- Settles O2: a command is a response or runs to a next state, and no move changes the queue of commands. -/
theorem everyCommandCompletes : Obligations.EveryCommandCompletes := by
  intro c s
  refine ⟨fun h => ?_, fun r hc high untaken used => ?_⟩
  · obtain ⟨t, ht⟩ : ∃ t, exec c s = .next t := by
      cases hc : responseOf c with
      | none => exact exec_completes hc s
      | some r => exact exec_response hc s ▸ memoryResponse_completes s r (h r hc)
    exact ⟨t, ht, exec_keeps_pending ht⟩
  · exact exec_response hc s ▸ memoryResponse_of_untaken high untaken used

/-- Settles O60: every clause is read off the reset state. -/
theorem resetMeetsInvariants : Obligations.ResetMeetsInvariants := by
  refine ⟨?bounded, ?ordered, ?due, ?settled, ?links, ?within, ?quiet⟩
  case bounded => constructor <;> simp [State.reset]
  case ordered => constructor <;> simp [State.reset, State.segmentStart]
  case due => exact ⟨rfl, rfl⟩
  case settled => exact ⟨rfl, .inl rfl, rfl, rfl⟩
  case links => constructor <;> simp [State.reset]
  case within => constructor <;> simp [State.reset]
  case quiet => simp [State.ResettingQuiet, State.reset]

/-- Settles O1: the step's equation for a queue with a front. -/
theorem stepRunsFrontCommand : Obligations.StepRunsFrontCommand := fun _ _ _ => rfl

end Sys2Proof.Machine
end


section
/-! SUPPORT. What is left to be done at the end of an event: nothing (R64, R66, R132, R193; log 2). The end of an event leaves a
settled state from any state; a command that does not close its event so leaves the hold queue alone, and makes neither quiescing nor
a soft reset due. -/

namespace Sys2Proof.Machine

/-! ## The decisions while quiescing -/

/-- A decision leaves the engine and the slots as they were while the engine is quiescing, and begins no quiescing (R66). -/
structure Decided (s t : State) : Prop where
  same : t.eng.state = .quiescing → t.eng = s.eng ∧ t.slots = s.slots

theorem Decided.of_eq {s t : State} (eng : t.eng = s.eng) (slots : t.slots = s.slots) : Decided s t := ⟨fun _ => ⟨eng, slots⟩⟩

theorem Decided.of_state {s t : State} (h : t.eng.state ≠ .quiescing) : Decided s t := ⟨fun hq => absurd hq h⟩

theorem Decided.trans {s t u : State} (h : Decided s t) (k : Decided t u) : Decided s u where
  same hq := by
    obtain ⟨eng, slots⟩ := k.same hq
    obtain ⟨eng', slots'⟩ := h.same (eng ▸ hq)
    exact ⟨eng.trans eng', slots.trans slots'⟩

/-- No decision makes the end of quiescing due. -/
theorem Decided.quiesceDue {s t : State} (h : Decided s t) (hs : s.quiesceDue = false) : t.quiesceDue = false := by
  by_contra due
  have due : t.quiesceDue = true := by simpa using due
  obtain ⟨eng, slots⟩ := h.same (quiesceDue_iff.mp due).1
  rw [State.quiesceDue, eng, slots] at due
  exact absurd (hs.symm.trans due) (by simp)

theorem raiseHead_decided (s : State) (h : Nat) : Decided s (s.raiseHead h) := by
  unfold State.raiseHead; dsimp only
  split
  · exact .of_state (by simp [State.enterActive, State.wake])
  · exact .of_eq (by simp) (by simp)

theorem release_decided (s : State) (v : Nat) (e : Epoch) : Decided s (s.release v e) := by
  unfold State.release; dsimp only
  split
  · exact .of_eq (by simp) (by simp)
  split
  · exact .of_eq rfl rfl
  split
  · exact raiseHead_decided ..
  · refine Decided.trans (t := if s.ring.head < s.releaseLimit then s.raiseHead s.releaseLimit else s) ?_ (.of_eq (by simp) (by simp))
    split
    · exact raiseHead_decided ..
    · exact .of_eq rfl rfl

theorem requestMark_decided (s : State) (src : Source) (tag : MarkTag) : Decided s (s.requestMark src tag) := by
  unfold State.requestMark; split
  · exact .of_state (by simp [markRefusal_none ‹_›])
  · exact .of_eq (by simp) (by simp)

theorem watchAction_decided (s : State) (r : Request) : Decided s (s.watchAction r) := by
  unfold State.watchAction; split
  · exact release_decided ..
  · exact requestMark_decided ..
  · split
    · exact .of_eq rfl rfl
    · exact .of_eq (by simp) (by simp)

theorem forwardRequest_decided (s : State) (queued : Bool) (r : Request) : Decided s (s.forwardRequest queued r) := by
  unfold State.forwardRequest; dsimp only
  split
  all_goals exact .of_eq (by simp) (by simp)

theorem answerRequest_decided (s : State) (queued : Bool) (r : Request) (st : LinkStatus) :
    Decided s (s.answerRequest queued r st) := by
  unfold State.answerRequest; split
  all_goals exact .of_eq (by simp) (by simp)

theorem reportFull_decided (s : State) (r : Request) : Decided s (s.reportFull r) := by
  unfold State.reportFull State.raiseRingFull; split
  · exact .of_eq rfl rfl
  · exact .of_eq (by simp) (by simp)

theorem takeView_decided (s : State) (queued : Bool) (r : Request) (src : ViewSource) : Decided s (s.takeView queued r src) := by
  unfold State.takeView; dsimp only
  cases src <;> cases queued
  all_goals exact .of_eq (by simp) (by simp)

theorem enact_decided (s : State) (queued : Bool) (r : Request) (v : Verdict) (h : s.admits r v) : Decided s (s.enact queued r v) := by
  cases v with
  | forward => exact forwardRequest_decided ..
  | answer st => exact answerRequest_decided ..
  | hold w => exact .of_eq (holdRequest_eng ..) (by simp only [State.enact, State.holdRequest]; split <;> simp)
  | journal =>
    refine .of_state ?_
    simp only [State.enact]
    rw [holdRequest_eng, startOperation_eng, h.1]
    simp
  | stallRing => exact .of_state (by simp [State.enact, State.raiseRingFull, State.enterStalled])
  | refuseFull => exact (reportFull_decided s r).trans (answerRequest_decided ..)
  | breakFull => exact (Decided.of_state (t := s.enterBroken .ringFullBreak) (by simp)).trans (forwardRequest_decided ..)
  | watch => exact (watchAction_decided s r).trans (forwardRequest_decided ..)
  | view src => exact takeView_decided ..

theorem decideEntry_decided (s : State) (r : Request) : Decided s (s.decideEntry r) := enact_decided _ _ _ _ (verdict_admits ..)

theorem submit_decided (s : State) (r : Request) : Decided s (s.submit r) := by
  unfold State.submit; split
  · exact .of_eq (by simp) (by simp)
  unfold State.decideArrival; dsimp only; split
  · exact .of_eq rfl rfl
  · exact enact_decided _ _ _ _ (verdict_admits ..)

theorem settle_decided (s : State) : Decided s s.settle :=
  settleQueue_keeps (P := Decided s) (fun t e m _ => m.trans (decideEntry_decided t e.req))
    (fun t r m _ => m.trans ((Decided.of_eq rfl rfl : Decided t { t with hold := { t.hold with waiting := none } }).trans
      (submit_decided _ r))) _ s (.of_eq rfl rfl)

/-! ## The end of an event -/

theorem State.Settled.nothingDue {s : State} (h : s.Settled) : s.NothingDue := ⟨h.quiesce, h.reset⟩

theorem nothingDue_of_state {s : State} (quiescing : s.eng.state ≠ .quiescing) (resetting : s.eng.state ≠ .resetting) :
    s.NothingDue := ⟨by simp [State.quiesceDue, quiescing], by simp [State.resetDue, resetting]⟩

theorem endQuiesce_state {s : State} (h : s.quiesceDue = true) : s.endQuiesce.eng.state ∈ [EngineState.opening, .closing, .rolling] := by
  obtain ⟨_, action, _⟩ := quiesceDue_iff.mp h
  unfold State.endQuiesce
  split
  · simp [State.openingStep1]
  · simp
  · simp [State.beginRollback]
  · simp_all

theorem checkQuiesce_not_due (s : State) : s.checkQuiesce.quiesceDue = false := by
  unfold State.checkQuiesce; split
  · have aim := endQuiesce_state ‹_›
    exact (nothingDue_of_state (by rintro h; simp [h] at aim) (by rintro h; simp [h] at aim)).1
  · exact eq_false_of_ne_true ‹_›

theorem endSoftReset_state (s : State) : s.endSoftReset.eng.state = .off := by simp [State.endSoftReset]

theorem endSoftReset_hold (s : State) : s.endSoftReset.hold = s.hold := by simp [State.endSoftReset]

theorem finish_settled (s : State) : s.finish.Settled := by
  obtain ⟨ready, waiting⟩ := settle_quiet s.checkQuiesce
  have due := (settle_decided s.checkQuiesce).quiesceDue (checkQuiesce_not_due s)
  unfold State.finish
  generalize s.checkQuiesce.settle = u at ready waiting due
  unfold State.checkReset; split
  · obtain ⟨hq, hr⟩ : u.endSoftReset.NothingDue :=
      nothingDue_of_state (by rw [endSoftReset_state]; simp) (by rw [endSoftReset_state]; simp)
    exact ⟨by simpa [State.firstReady, endSoftReset_hold] using ready, by rw [endSoftReset_hold]; exact waiting, hq, hr⟩
  · exact ⟨ready, waiting, due, eq_false_of_ne_true ‹_›⟩

/-! ## What each command leaves -/

/-- What an event that begins in `s` may leave: a settled state, or the hold queue as it was with nothing made due. -/
def Ends (s t : State) : Prop := t.Settled ∨ (t.hold = s.hold ∧ (s.NothingDue → t.NothingDue))

theorem Ends.refl (s : State) : Ends s s := .inr ⟨rfl, id⟩

theorem ends_finish (s u : State) : Ends s u.finish := .inl (finish_settled u)

theorem Ends.trans {s t u : State} (h : Ends s t) (k : Ends t u) : Ends s u := by
  rcases k with settled | ⟨hold, due⟩
  · exact .inl settled
  rcases h with settled | ⟨hold', due'⟩
  · obtain ⟨quiesce, reset⟩ := due settled.nothingDue
    exact .inl ⟨by simpa [State.firstReady, hold] using settled.ready, by rw [hold]; exact settled.waiting, quiesce, reset⟩
  · exact .inr ⟨hold.trans hold', due ∘ due'⟩

theorem Ends.settled {s t : State} (h : Ends s t) (hs : s.Settled) : t.Settled := by
  rcases (Ends.trans (s := s) (.inl hs) h : Ends s t) with settled | ⟨hold, due⟩
  · exact settled
  · obtain ⟨quiesce, reset⟩ := due hs.nothingDue
    exact ⟨by simpa [State.firstReady, hold] using hs.ready, by rw [hold]; exact hs.waiting, quiesce, reset⟩

theorem Ends.nothingDue {s t : State} (h : Ends s t) (hs : s.NothingDue) : t.NothingDue := by
  rcases h with settled | ⟨_, due⟩
  · exact settled.nothingDue
  · exact due hs

/-- A change of the fields that no decision and no due operation reads. -/
theorem ends_of_same {s t : State} (hold : t.hold = s.hold) (eng : t.eng = s.eng) (slots : t.slots = s.slots)
    (busy : t.down.internalBusy = s.down.internalBusy) : Ends s t :=
  .inr ⟨hold, fun ⟨hq, hr⟩ => ⟨by simpa [State.quiesceDue, eng, slots] using hq, by simpa [State.resetDue, eng, busy] using hr⟩⟩

theorem ends_of_state {s t : State} (hold : t.hold = s.hold) (quiescing : t.eng.state ≠ .quiescing)
    (resetting : t.eng.state ≠ .resetting) : Ends s t := .inr ⟨hold, fun _ => nothingDue_of_state quiescing resetting⟩

theorem reply_ends (s : State) (res : MgmtResult) (data : List Byte) : Ends s (s.reply res data) := ends_of_same rfl rfl rfl rfl

theorem raise_ends (s : State) (k : EventKind) (q d n : Option Nat) : Ends s (s.raise k q d n) := ends_of_same rfl rfl rfl rfl

theorem running_ends {f : State → State} {s t : State} (hf : ∀ u, Ends u (f u)) (h : s.running f = .next t) : Ends s t := by
  unfold State.running at h
  split at h <;> cases h
  · exact hf s.nextEvent
  · exact .refl s

theorem due_ends {s t : State} (due : State → Prop) [DecidablePred due] (f : State → State)
    (hf : ∀ u, due u → Ends u (f u)) (h : (s.running fun u => if due u then f u else u) = .next t) : Ends s t := by
  refine running_ends (fun u => ?_) h
  split
  · exact hf u ‹_›
  · exact .refl u

theorem unlessResetting_ends (s : State) (n : Nat) {t : State} (h : s.eng.state ≠ .resetting → Ends s t) :
    Ends s (s.unlessResetting n t) := by
  unfold State.unlessResetting; split
  · exact reply_ends ..
  · exact h ‹_›

theorem inOff_ends (s : State) {t : State} (h : s.eng.state = .off → Ends s t) : Ends s (s.inOff t) := by
  refine unlessResetting_ends s 0 fun _ => ?_
  split
  · exact h ‹_›
  · exact reply_ends ..

theorem requestMark_ends (s : State) (src : Source) (tag : MarkTag) : Ends s (s.requestMark src tag) := by
  unfold State.requestMark; split
  · have active := (markRefusal_none ‹_›).1
    exact ends_of_state (by simp) (by simp [active]) (by simp [active])
  · exact raise_ends ..

theorem markCommand_ends (s : State) (tag : MarkTag) : Ends s (s.markCommand tag) := by
  unfold State.markCommand; split
  · have active := (markRefusal_none ‹_›).1
    exact ends_of_state (by simp) (by simp [active]) (by simp [active])
  · exact reply_ends ..

theorem takeRequest_ends (s : State) (r : UpRequest) : Ends s (s.takeRequest r) := by
  unfold State.takeRequest; split
  · exact raise_ends ..
  · exact ends_finish ..

theorem memoryResponse_ends (r : MemResponse) {s t : State} (h : s.memoryResponse r = .next t) : Ends s t := by
  unfold State.memoryResponse at h
  split at h
  · cases h; exact .refl s
  split at h
  · cases h; exact ends_finish ..
  · split at h <;> cases h
    exact ends_of_same rfl rfl rfl rfl

theorem openRecord_ends (s : State) (h : s.eng.state = .opening) : Ends s s.openRecord :=
  ends_of_state (by simp [State.openRecord, State.assignOpen]) (by simp [State.openRecord, State.assignOpen, h])
    (by simp [State.openRecord, State.assignOpen, h])

theorem markExpiry_ends (s : State) : Ends s s.markExpiry :=
  (ends_of_same rfl rfl rfl rfl : Ends s { s with timer := { s.timer with
    counter := 0, phase := 0, markCount := s.timer.markCount + 1 } }).trans (requestMark_ends ..)

theorem acceptStart_ends (s : State) : Ends s s.acceptStart := by
  unfold State.acceptStart; split
  · exact ends_of_state (by simp) (by simp) (by simp)
  · exact reply_ends ..

theorem acceptRecover_ends (s : State) : Ends s s.acceptRecover := by
  unfold State.acceptRecover; split
  · exact ends_of_state (by simp) (by simp) (by simp)
  · exact reply_ends ..

theorem quiesceCommand_ends (s : State) (a : Action) : Ends s (s.quiesceCommand a) := by
  unfold State.quiesceCommand; split
  any_goals exact reply_ends ..
  all_goals exact ends_finish ..

theorem tickStall_ends (s : State) : Ends s s.tickStall := by
  unfold State.tickStall; split
  · exact .refl s
  split
  · exact ends_finish ..
  · exact ends_of_same rfl rfl rfl rfl

theorem tickMark_ends (s : State) : Ends s s.tickMark := by
  unfold State.tickMark
  split
  · exact .refl s
  split
  · exact ends_of_same rfl rfl rfl rfl
  split
  · exact ends_of_same rfl rfl rfl rfl
  · exact markExpiry_ends s

theorem tick_ends (s : State) : Ends s s.tick := by
  unfold State.tick; split
  · exact (tickStall_ends s.nextEvent).trans (tickMark_ends _)
  · exact .refl s

end Sys2Proof.Machine
end


section
/-! SUPPORT. Every command ends its event (R66, R132, R193; log 2): it leaves a settled state, or the hold queue as it was with
nothing made due. -/

namespace Sys2Proof.Machine

theorem setLayout_ends (a : LayoutArgs) {s t : State} (h : execSetLayout a s = .next t) : Ends s t := by
  refine running_ends (fun u => inOff_ends u fun off => ?_) h
  split
  · exact reply_ends ..
  · exact ends_of_same rfl rfl rfl rfl

theorem setAddressing_ends (f : BitVec 16) (v : Byte) {s t : State} (h : execSetAddressing f v s = .next t) : Ends s t := by
  refine running_ends (fun u => inOff_ends u fun off => ?_) h
  split
  · exact reply_ends ..
  split
  · exact reply_ends ..
  · exact ends_of_same rfl rfl rfl rfl

theorem writeRegion_ends (a : RegionArgs) {s t : State} (h : execWriteRegion a s = .next t) : Ends s t := by
  refine running_ends (fun u => inOff_ends u fun off => ?_) h
  split
  · split
    · exact reply_ends ..
    · exact ends_of_same rfl rfl rfl rfl
  · exact reply_ends ..

theorem readRegion_ends (i : Byte) {s t : State} (h : execReadRegion i s = .next t) : Ends s t := by
  refine running_ends (fun u => unlessResetting_ends u 9 fun _ => ?_) h
  split
  · exact reply_ends ..
  · exact reply_ends ..

theorem setTimer_ends (k : Byte) (c : BitVec 16) (e : Byte) {s t : State} (h : execSetTimer k c e s = .next t) : Ends s t := by
  refine running_ends (fun u => unlessResetting_ends u 0 fun _ => ?_) h
  split
  · exact reply_ends ..
  · exact ends_of_same rfl rfl rfl rfl

theorem rollback_ends (k : Byte) (q : BitVec 64) {s t : State} (h : execRollback k q s = .next t) : Ends s t := by
  refine running_ends (fun u => ?_) h
  have tried : Ends u (u.tryRollback k.toNat q.toNat) := by
    unfold State.tryRollback
    split
    · exact reply_ends ..
    split
    · exact reply_ends ..
    split
    · exact reply_ends ..
    · exact ends_finish ..
  split
  any_goals exact reply_ends ..
  all_goals exact tried

theorem upstreamRequest_ends (r : UpRequest) {s t : State} (h : execUpstreamRequest r s = .next t) : Ends s t := by
  unfold execUpstreamRequest at h
  split at h <;> cases h
  · exact takeRequest_ends s.nextEvent r
  · exact .refl s

theorem upstreamResponseReady_ends {s t : State} (h : execUpstreamResponseReady s = .next t) : Ends s t := by
  unfold execUpstreamResponseReady at h
  split at h <;> cases h
  · exact ends_of_same rfl rfl rfl rfl
  · exact ends_of_same rfl rfl rfl rfl

theorem downstreamIssue_ends (a : IssueArgs) {s t : State} (h : execDownstreamIssue a s = .next t) : Ends s t := by
  refine running_ends (fun u => ?_) h
  dsimp only
  split
  · exact ends_finish ..
  · exact ends_of_same rfl rfl rfl rfl

theorem setEventMask_ends (m : BitVec 16) {s t : State} (h : execSetEventMask m s = .next t) : Ends s t := by
  refine running_ends (fun u => unlessResetting_ends u 0 fun _ => ?_) h
  exact ends_of_same rfl rfl rfl rfl

theorem frameEnd_ends (n : Nat) {s t : State} (h : execFrameEnd n s = .next t) : Ends s t := by
  refine running_ends (fun u => ?_) h
  exact ends_of_same rfl rfl rfl rfl

theorem readEvent_ends {s t : State} (h : execReadEvent s = .next t) : Ends s t := by
  refine running_ends (fun u => unlessResetting_ends u 20 fun _ => ?_) h
  exact ends_of_same rfl rfl rfl rfl

/-- Every command ends its event. -/
theorem exec_ends (c : Instr) {s t : State} (h : exec c s = .next t) : Ends s t := by
  cases c with
  | setLayout a => exact setLayout_ends a h
  | setAddressing f v => exact setAddressing_ends f v h
  | writeRegion a => exact writeRegion_ends a h
  | setEventMask m => exact setEventMask_ends m h
  | powerOnReset => cases h; exact .inl ⟨rfl, .inl rfl, rfl, rfl⟩
  | upstreamRequest r => exact upstreamRequest_ends r h
  | upstreamResponseReady => exact upstreamResponseReady_ends h
  | responseReadyWithheld | rstnFalls => cases h; exact ends_of_same rfl rfl rfl rfl
  | downstreamIssue a => exact downstreamIssue_ends a h
  | forwardedResponse r | oldDataResponse r | recordWriteAck r | statusWriteResponse r | startControlReadResponse r
  | recoverControlReadResponse r | viewReaderResponse r | replayReadResponse r | restoringWriteAck r | scanReadResponse r
  | strayResponse r => exact memoryResponse_ends r h
  | markTimerExpiry => exact due_ends (·.markRunning = true) State.markExpiry (fun u _ => markExpiry_ends u) h
  | stallTimerExpiry => exact due_ends (·.eng.state = .stalled) (·.stallExpiry.finish) (fun u _ => ends_finish u _) h
  | frameEnd n => exact frameEnd_ends n h
  | readId | readSegments => exact running_ends (fun u => unlessResetting_ends u _ fun _ => reply_ends ..) h
  | readStatus => exact running_ends (fun u => reply_ends ..) h
  | readEvent => exact readEvent_ends h
  | readRegion i => exact readRegion_ends i h
  | setTimer p c e => exact setTimer_ends p c e h
  | start => exact running_ends (fun u => inOff_ends u fun _ => acceptStart_ends u) h
  | recover => exact running_ends (fun u => inOff_ends u fun _ => acceptRecover_ends u) h
  | commit | stop => exact running_ends (fun u => quiesceCommand_ends u _) h
  | mark tag => exact running_ends (fun u => unlessResetting_ends u _ fun _ => markCommand_ends u tag) h
  | rollback k q => exact rollback_ends k q h
  | softReset => exact running_ends (fun u => unlessResetting_ends u _ fun _ => ends_finish u _) h
  | unknown code => exact running_ends (fun u => reply_ends ..) h
  | openRecordAssign =>
    exact due_ends (·.openDue = true) State.openRecord
      (fun u due => openRecord_ends u (by simp [State.openDue] at due; exact due.1)) h
  | quiesceEnd =>
    refine due_ends (·.quiesceDue = true) State.endQuiesce (fun u due => .inr ⟨?_, fun nothing => ?_⟩) h
    · unfold State.endQuiesce; split <;> simp [State.openingStep1, State.beginRollback]
    · exact absurd (due.symm.trans nothing.1) (by simp)
  | replayStart => exact due_ends (·.replayDue = true) (·.beginReplay.finish) (fun u _ => ends_finish u _) h
  | rollbackEnd => exact due_ends (·.rollbackDue = true) (·.endRollback.finish) (fun u _ => ends_finish u _) h
  | closingEnd => exact due_ends (·.closingDue = true) (·.closeEpoch.finish) (fun u _ => ends_finish u _) h
  | scanEnd => exact due_ends (·.scanDue = true) (·.endScan.finish) (fun u _ => ends_finish u _) h
  | softResetEnd =>
    exact due_ends (·.resetDue = true) State.endSoftReset (fun u _ =>
      ends_of_state (endSoftReset_hold u) (by simp [endSoftReset_state]) (by simp [endSoftReset_state])) h

theorem step_ends {s t : State} (h : step s = .next t) : Ends s t := by
  unfold step at h; split at h
  · cases h; exact tick_ends s
  · rename_i c rest _
    have begun : Ends s { s with pending := rest } := ends_of_same rfl rfl rfl rfl
    exact begun.trans (exec_ends c h)

/-- Settles O59: every command ends its event, and every move keeps what RESETTING leaves. -/
theorem stepLeavesNothingDue : Obligations.StepLeavesNothingDue :=
  ⟨fun _ _ due h => (step_ends h).nothingDue due, fun _ _ settled h => (step_ends h).settled settled,
    fun _ _ => step_keeps_resettingQuiet⟩

end Sys2Proof.Machine
end


section
/-! SUPPORT. The reset pin and the power-on reset (R194), and the timers' ticks (R34, R36, R82). -/

namespace Sys2Proof.Machine

/-! ## The pins -/

/-- Settles O4: the power-on reset writes the reset state out. -/
theorem powerOnReset : Obligations.PowerOnReset := by
  refine ⟨fun s => rfl, ?_⟩
  refine ⟨rfl, rfl, rfl, rfl, rfl, rfl, rfl, rfl, rfl, rfl, rfl, rfl, rfl, rfl, rfl, rfl, rfl, ?_, rfl, rfl, rfl, rfl, rfl, rfl, rfl,
    rfl, rfl, rfl, rfl, rfl, rfl, rfl⟩
  intro r hr
  simpa [State.reset] using hr

theorem ite_next_of_low {s : State} (h : s.rstn = false) (a : State) :
    (if s.rstn then .next a else .next s : Host.Outcome State Fault Refusal) = .next s := by simp [h]

/-- While RSTN is low no command but the pins' own changes the device (R181, log 13). -/
theorem exec_of_low (c : Instr) {s : State} (h : s.rstn = false) (reset : c ≠ .powerOnReset) (falls : c ≠ .rstnFalls)
    (ready : c ≠ .upstreamResponseReady) (withheld : c ≠ .responseReadyWithheld) : exec c s = .next s := by
  cases c with
  | powerOnReset => exact absurd rfl reset
  | rstnFalls => exact absurd rfl falls
  | upstreamResponseReady => exact absurd rfl ready
  | responseReadyWithheld => exact absurd rfl withheld
  | upstreamRequest r => exact if_neg (by simp [State.upReady, h])
  | forwardedResponse r | oldDataResponse r | recordWriteAck r | statusWriteResponse r | startControlReadResponse r
  | recoverControlReadResponse r | viewReaderResponse r | replayReadResponse r | restoringWriteAck r | scanReadResponse r
  | strayResponse r => exact memoryResponse_of_low h
  | _ => exact ite_next_of_low h _

/-- Settles O5: the falling edge writes two fields, and a low pin stops every command. -/
theorem rstnLow : Obligations.RstnLow := by
  refine ⟨fun s => ⟨_, rfl, rfl, ?_, ?_, ?_⟩, fun c s => exec_of_low c⟩
  · simp [State.upReady]
  · simp [State.alertLow]
  · simp [State.sdo]

/-! ## The timers -/

theorem step_of_empty {s : State} (h : s.pending = []) : step s = .next s.tick := by simp [step, h]

theorem tick_of_high {s : State} (h : s.rstn = true) : s.tick = s.nextEvent.tickStall.tickMark := by simp [State.tick, h]

theorem tickStall_of_none {s : State} (h : s.stall = none) : s.tickStall = s := by simp [State.tickStall, h]

theorem markRunning_of_disabled {s : State} (h : s.timer.enabled = false) : s.markRunning = false := by simp [State.markRunning, h]

theorem tickMark_of_stopped {s : State} (h : s.markRunning = false) : s.tickMark = s := by simp [State.tickMark, h]

theorem enact_timer (s : State) (queued : Bool) (r : Request) (v : Verdict) : (s.enact queued r v).timer = s.timer := by
  have held : ∀ (t : State) w, (t.holdRequest queued r w).timer = t.timer := fun t w => by
    unfold State.holdRequest; split <;> simp
  have forwarded : ∀ t : State, (t.forwardRequest queued r).timer = t.timer := fun t => by
    unfold State.forwardRequest; dsimp only; split <;> simp
  have answered : ∀ (t : State) st, (t.answerRequest queued r st).timer = t.timer := fun t st => by
    unfold State.answerRequest; split <;> simp
  cases v with
  | forward => exact forwarded s
  | answer st => exact answered s st
  | hold w => exact held s w
  | journal =>
    refine (held _ _).trans ?_
    unfold State.startOperation State.touchInsert; dsimp only; split <;> simp
  | stallRing => simp [State.enact, State.raiseRingFull, State.enterStalled, held]
  | refuseFull =>
    refine (answered _ _).trans ?_
    unfold State.reportFull State.raiseRingFull; split <;> simp
  | breakFull => exact (forwarded _).trans (by simp)
  | watch => exact (forwarded _).trans (by simp)
  | view src =>
    unfold State.enact State.takeView; dsimp only
    cases src <;> cases queued <;> simp

theorem submit_timer (s : State) (r : Request) : (s.submit r).timer = s.timer := by
  unfold State.submit; split
  · simp
  unfold State.decideArrival; dsimp only; split
  · rfl
  · exact enact_timer ..

theorem endQuiesce_enabled (s : State) : s.endQuiesce.timer.enabled = s.timer.enabled := by
  unfold State.endQuiesce; split
  · simp [State.openingStep1]
  · simp
  · simp [State.beginRollback]
  · rfl

/-- No end of an event enables or disables the mark timer (R35). -/
theorem finish_enabled (s : State) : s.finish.timer.enabled = s.timer.enabled :=
  finish_keeps (P := fun t => t.timer.enabled = s.timer.enabled)
    (fun _ _ h _ => (congrArg MarkTimer.enabled (enact_timer ..)).trans h)
    (fun _ _ h _ => (congrArg MarkTimer.enabled (submit_timer ..)).trans h)
    (fun _ h _ => (endQuiesce_enabled _).trans h) (fun _ h _ => by simpa [State.endSoftReset] using h) s rfl

theorem stallExpiry_enabled (s : State) : s.stallExpiry.timer.enabled = s.timer.enabled := by simp [State.stallExpiry]

theorem exec_markTimerExpiry {s : State} (hr : s.rstn = true) (h : s.markRunning = true) :
    exec .markTimerExpiry s = .next s.nextEvent.markExpiry := by
  have running : s.nextEvent.markRunning = true := h
  show execMarkTimerExpiry s = _
  simp [execMarkTimerExpiry, running_of_high hr, running]

theorem exec_stallTimerExpiry {s : State} (hr : s.rstn = true) (h : s.eng.state = .stalled) :
    exec .stallTimerExpiry s = .next s.nextEvent.stallExpiry.finish := by
  show execStallTimerExpiry s = _
  simp [execStallTimerExpiry, running_of_high hr, h]

/-- Settles O3: of the two timers one at most does something in the tick. -/
theorem timersTick : Obligations.TimersTick := by
  intro s empty high
  have ticked : step s = .next s.nextEvent.tickStall.tickMark := by rw [step_of_empty empty, tick_of_high high]
  refine ⟨fun noStall stopped => ?_, fun noStall enabled notOff notResetting => ?_, fun n counting disabled stalled => ?_⟩
  · have idle : s.nextEvent.markRunning = false := by
      rcases stopped with h | h | h <;> simp [State.markRunning, h]
    rw [ticked, tickStall_of_none (by exact noStall), tickMark_of_stopped idle]; rfl
  · have running : s.nextEvent.markRunning = true := by simp [State.markRunning, enabled, notOff, notResetting]
    rw [ticked, tickStall_of_none (by exact noStall)]
    refine ⟨fun low => ?_, fun full low => ?_, fun full due => ?_⟩
    · simp [State.tickMark, running, low]
    · simp [State.tickMark, running, Nat.not_lt.mpr full, low]
    · rw [exec_markTimerExpiry high (by exact running)]
      simp [State.tickMark, running, Nat.not_lt.mpr full, Nat.not_lt.mpr due]
  · rw [ticked]
    refine ⟨fun low => ?_, fun due => ?_⟩
    · have counted : s.nextEvent.tickStall = { s.nextEvent with stall := some (n + 1) } := by
        simp [State.tickStall, counting, Nat.not_le.mpr low]
      rw [counted, tickMark_of_stopped (markRunning_of_disabled (by exact disabled))]; rfl
    · have expired : s.nextEvent.tickStall = s.nextEvent.stallExpiry.finish := by
        simp [State.tickStall, counting, stalled, due]
      have idle : s.nextEvent.stallExpiry.finish.timer.enabled = false := by
        rw [finish_enabled, stallExpiry_enabled]; exact disabled
      rw [expired, tickMark_of_stopped (markRunning_of_disabled idle), exec_stallTimerExpiry high stalled]

end Sys2Proof.Machine
end


section
/-! SUPPORT. What the readback commands answer (R182, R187, R188, R191): each answer is a list of little-endian fields. -/

namespace Sys2Proof

/-- A concatenation, cut around the part that one element contributes. -/
theorem flatMap_around {α β : Type} (f : α → List β) (l : List α) (i : Nat) (h : i < l.length) :
    l.flatMap f = (l.take i).flatMap f ++ (f l[i] ++ (l.drop (i + 1)).flatMap f) := by
  rw [← List.flatMap_cons, ← List.drop_eq_getElem_cons h, ← List.flatMap_append, List.take_append_drop]

/-- A list of fields, each a number of bytes and a value. -/
def fieldBytes (l : List (Nat × Nat)) : List Byte := l.flatMap fun p => toBytes p.1 p.2

@[simp] theorem fieldBytes_length (l : List (Nat × Nat)) : (fieldBytes l).length = (l.map Prod.fst).sum := by
  simp [fieldBytes]

/-- A field is read at the sum of the widths ahead of it. -/
theorem argField_fieldBytes {l : List (Nat × Nat)} (i : Nat) {k n v : Nat} (hi : l[i]? = some (n, v))
    (hk : ((l.take i).map Prod.fst).sum = k) (hv : v < 2 ^ (8 * n)) : argField (fieldBytes l) k n = v := by
  obtain ⟨h, entry⟩ := List.getElem?_eq_some_iff.mp hi
  have split : fieldBytes l = fieldBytes (l.take i) ++ (toBytes n v ++ fieldBytes (l.drop (i + 1))) := by
    have around := flatMap_around (fun p : Nat × Nat => toBytes p.1 p.2) l i h
    rwa [entry] at around
  rw [split, ← hk, ← fieldBytes_length, ← Nat.add_zero (fieldBytes (l.take i)).length, argField_behind]
  exact argField_head _ _ _ (by rwa [Nat.pow_mul] at hv)

/-- A field within the first of two lists. -/
theorem argField_ahead {front : List Byte} {k n : Nat} (h : k + n ≤ front.length) (rest : List Byte) :
    argField (front ++ rest) k n = argField front k n := by
  rw [argField, List.drop_append_of_le_length (by omega), List.take_append_of_le_length (by simp; omega), argField]

end Sys2Proof

namespace Sys2Proof.Machine

/-! ## READ_STATUS -/

theorem execReadStatus_of_high {s : State} (hr : s.rstn = true) :
    execReadStatus s = .next (s.answered .accepted (snapshot s)) := running_of_high hr _

/-- The fields of the status snapshot (R187). -/
def snapshotFields (s : State) : List (Nat × Nat) :=
  [(1, s.eng.state.code), (1, (s.eng.cause.map Cause.code).getD 0),
    (1, s.touch.saturated.toNat + 2 * s.port.overflow.toNat + 4 * s.eng.pendingTarget.isSome.toNat),
    (1, actionCode s.eng.action), (4, s.eng.epoch.toNat), (8, s.ring.head), (8, s.ring.frontier), (8, s.ring.tail),
    (8, actionTarget s.eng.action), (8, s.eng.pendingTarget.getD 0), (2, s.touch.entries.length), (1, s.hold.queue.length),
    (1, s.segments.length), (1, s.port.events.length), (2, s.addressing.fold.toNat), (1, viewByte s.addressing)]

theorem snapshot_eq (s : State) : snapshot s = fieldBytes (snapshotFields s) := by
  simp [snapshot, snapshotFields, fieldBytes, List.append_assoc]

theorem stateCode_lt (e : EngineState) : e.code < 256 := by cases e <;> decide

theorem causeCode_lt (c : Option Cause) : (c.map Cause.code).getD 0 < 256 := by
  rcases c with _ | c
  · decide
  · cases c <;> decide

theorem actionCode_lt (a : Option Action) : actionCode a < 256 := by
  rcases a with _ | a
  · decide
  · cases a <;> simp [actionCode]

theorem flags_lt (a b c : Bool) : a.toNat + 2 * b.toNat + 4 * c.toNat < 256 := by cases a <;> cases b <;> cases c <;> decide

theorem flags_eq (a b c : Bool) :
    a.toNat + 2 * b.toNat + 4 * c.toNat = (if a then 1 else 0) + (if b then 2 else 0) + (if c then 4 else 0) := by
  cases a <;> cases b <;> cases c <;> rfl

theorem snapshotField {s : State} (i : Nat) {k n v : Nat} (hi : (snapshotFields s)[i]? = some (n, v))
    (hk : (([1, 1, 1, 1, 4, 8, 8, 8, 8, 8, 2, 1, 1, 1, 2, 1] : List Nat).take i).sum = k) (hv : v < 2 ^ (8 * n)) :
    argField (snapshot s) k n = v := by
  rw [snapshot_eq]
  refine argField_fieldBytes i hi ?_ hv
  rw [List.map_take, ← hk]; rfl

/-- Settles O7: every field of the snapshot fits the bytes it has. -/
theorem statusSnapshot : Obligations.StatusSnapshot := by
  intro s hr bounded head frontier tail action target view
  have actionTarget_lt : actionTarget s.eng.action < 2 ^ 64 := by
    unfold actionTarget; split
    · exact action _ ‹_›
    · decide
  have target_lt : s.eng.pendingTarget.getD 0 < 2 ^ 64 := by
    cases h : s.eng.pendingTarget
    · simp
    · exact target _ h
  have view_lt : viewByte s.addressing < 256 := by
    unfold viewByte
    cases h : s.addressing.viewBit
    · decide
    · exact view _ h
  refine ⟨snapshot s, execReadStatus_of_high hr, ?_, ?_⟩
  · rw [snapshot_eq, fieldBytes_length]; rfl
  refine ⟨(snapshotField 0 rfl (by decide) (stateCode_lt _)).trans ?_, (snapshotField 1 rfl (by decide) (causeCode_lt _)).trans ?_,
    (snapshotField 2 rfl (by decide) (flags_lt _ _ _)).trans (flags_eq _ _ _), (snapshotField 3 rfl (by decide) (actionCode_lt _)).trans ?_,
    snapshotField 4 rfl (by decide) s.eng.epoch.isLt, snapshotField 5 rfl (by decide) head, snapshotField 6 rfl (by decide) frontier, snapshotField 7 rfl (by decide) tail,
    (snapshotField 8 rfl (by decide) actionTarget_lt).trans ?_, snapshotField 9 rfl (by decide) target_lt, snapshotField 10 rfl (by decide) ?_, snapshotField 11 rfl (by decide) ?_,
    snapshotField 12 rfl (by decide) ?_, snapshotField 13 rfl (by decide) ?_, snapshotField 14 rfl (by decide) ?_, snapshotField 15 rfl (by decide) view_lt⟩
  · cases s.eng.state <;> rfl
  · cases s.eng.cause with
    | none => rfl
    | some c => cases c <;> rfl
  · cases s.eng.action with
    | none => rfl
    | some a => cases a <;> rfl
  · cases s.eng.action with
    | none => rfl
    | some a => cases a <;> rfl
  · exact Nat.lt_of_le_of_lt bounded.touch (by decide)
  · exact Nat.lt_of_le_of_lt bounded.hold (by decide)
  · exact Nat.lt_of_le_of_lt bounded.segments (by decide)
  · exact Nat.lt_of_le_of_lt bounded.events (by decide)
  · exact Nat.lt_trans s.addressing.fold.isLt (by decide)

/-! ## READ_SEGMENTS -/

theorem exec_readSegments (s : State) : exec .readSegments s = execReadSegments s := rfl

/-- The bytes of one entry of the segment list (R188). -/
def entryBytes (e : Segment) : List Byte := fieldBytes [(8, e.seq), (4, e.tag.toNat), (1, e.source.code)]

theorem entryBytes_length (e : Segment) : (entryBytes e).length = 13 := by simp [entryBytes]

theorem segmentBytes_eq (l : List Segment) : segmentBytes l = toBytes 1 l.length ++ l.flatMap entryBytes := by
  unfold segmentBytes
  congr 2

theorem flatMap_entryBytes_length (l : List Segment) : (l.flatMap entryBytes).length = 13 * l.length := by
  simp [List.length_flatMap, entryBytes_length, Nat.mul_comm]

/-- A field of the i-th entry is a field of its thirteen bytes. -/
theorem argField_entry (l : List Segment) (i : Nat) (h : i < l.length) {k n : Nat} (hk : k + n ≤ 13) :
    argField (segmentBytes l) (1 + 13 * i + k) n = argField (entryBytes l[i]) k n := by
  have split : segmentBytes l =
      (toBytes 1 l.length ++ (l.take i).flatMap entryBytes) ++ (entryBytes l[i] ++ (l.drop (i + 1)).flatMap entryBytes) := by
    rw [segmentBytes_eq, List.append_assoc, flatMap_around entryBytes l i h]
  have behind : (toBytes 1 l.length ++ (l.take i).flatMap entryBytes).length = 1 + 13 * i := by
    rw [List.length_append, toBytes_length, flatMap_entryBytes_length, List.length_take, Nat.min_eq_left (Nat.le_of_lt h)]
  rw [split, ← behind, argField_behind, argField_ahead (by rw [entryBytes_length]; exact hk)]

theorem execReadSegments_of_ne {s : State} (hr : s.rstn = true) (h : s.eng.state ≠ .resetting) :
    execReadSegments s = .next (s.answered .accepted (segmentBytes s.segments)) := by
  rw [execReadSegments, running_unlessResetting_of_ne _ _ hr h]; rfl

theorem sourceCode_lt {c : Source} (h : ∀ n, c = .other n → n < 256) : c.code < 256 := by
  cases c with
  | other n => exact h n rfl
  | _ => decide

/-- Settles O8: the entries are thirteen bytes each, and every field fits the bytes it has. -/
theorem readSegments : Obligations.ReadSegments := by
  intro s hr notResetting bounded fits
  refine ⟨segmentBytes s.segments, execReadSegments_of_ne hr notResetting, ?_, ?_, fun i h => ?_⟩
  · rw [segmentBytes_eq, List.length_append, toBytes_length, flatMap_entryBytes_length]
  · rw [segmentBytes_eq]
    exact argField_head _ _ _ (Nat.lt_of_le_of_lt bounded.segments (by decide))
  obtain ⟨seq, source⟩ := fits _ (List.getElem_mem h)
  have entry := fun k n hk => argField_entry s.segments i h (k := k) (n := n) hk
  refine ⟨(entry 0 8 (by decide)).trans (argField_fieldBytes 0 rfl rfl seq), ?_, ?_⟩
  · rw [show 9 + 13 * i = 1 + 13 * i + 8 by omega]
    exact (entry 8 4 (by decide)).trans (argField_fieldBytes 1 rfl rfl s.segments[i].tag.isLt)
  · rw [show 13 + 13 * i = 1 + 13 * i + 12 by omega]
    refine ((entry 12 1 (by decide)).trans (argField_fieldBytes 2 rfl rfl (sourceCode_lt source))).trans ?_
    cases s.segments[i].source <;> rfl

/-! ## READ_EVENT -/

theorem exec_readEvent (s : State) : exec .readEvent s = execReadEvent s := rfl

theorem execReadEvent_of_ne {s : State} (hr : s.rstn = true) (h : s.eng.state ≠ .resetting) :
    execReadEvent s = .next { s with eventNo := s.eventNo + 1, port := { s.port with frame := some s.eventFrame } } := by
  rw [execReadEvent, running_unlessResetting_of_ne _ _ hr h]; rfl

/-- The fields of an event record (R189). -/
def eventFields (r : EventRecord) (behind : Nat) : List (Nat × Nat) :=
  [(1, r.kind.code), (1, r.state.code), (1, r.fields), (1, behind), (8, r.seq.getD 0), (4, r.detail.getD 0), (4, r.count.getD 0)]

theorem eventBytes_eq (r : EventRecord) (behind : Nat) : eventBytes r behind = fieldBytes (eventFields r behind) := by
  simp [eventBytes, eventFields, fieldBytes, List.append_assoc]

theorem kindCode_lt (k : EventKind) : k.code < 256 := by cases k <;> decide

theorem getD_lt {o : Option Nat} {n : Nat} (h : ∀ v, o = some v → v < n) (hn : 0 < n) : o.getD 0 < n := by
  cases o with
  | none => exact hn
  | some v => exact h v rfl

/-- Settles O9: every field of the oldest record fits the bytes it has. -/
theorem readEventCopiesOldest : Obligations.ReadEventCopiesOldest := by
  intro s hr notResetting
  refine ⟨fun empty => ?_, fun r rs oldest few seq detail count => ?_⟩
  · rw [exec_readEvent, execReadEvent_of_ne hr notResetting]
    simp [State.eventFrame, empty, State.answered, zeros]
  · refine ⟨eventBytes r rs.length, ?_, ?_, ?_⟩
    · rw [exec_readEvent, execReadEvent_of_ne hr notResetting]
      simp [State.eventFrame, oldest]
    · rw [eventBytes_eq, fieldBytes_length]; rfl
    rw [eventBytes_eq]
    refine ⟨(argField_fieldBytes 0 rfl rfl (kindCode_lt _)).trans ?_, (argField_fieldBytes 1 rfl rfl (stateCode_lt _)).trans ?_,
      (argField_fieldBytes 2 rfl rfl (flags_lt _ _ _)).trans (flags_eq _ _ _), argField_fieldBytes 3 rfl rfl ?_,
      argField_fieldBytes 4 rfl rfl (getD_lt seq (by decide)), argField_fieldBytes 5 rfl rfl (getD_lt detail (by decide)),
      argField_fieldBytes 6 rfl rfl (getD_lt count (by decide))⟩
    · cases r.kind <;> rfl
    · cases r.state <;> rfl
    · exact Nat.lt_trans few (by decide)

end Sys2Proof.Machine
end


section
/-! SUPPORT. The management port's event queue, frames and refusals (R182, R183, R184, R190, R191). -/

namespace Sys2Proof.Machine

/-! ## The commands, by name -/

theorem exec_setAddressing (f : BitVec 16) (v : Byte) (s : State) : exec (.setAddressing f v) s = execSetAddressing f v s := rfl

theorem exec_writeRegion (a : RegionArgs) (s : State) : exec (.writeRegion a) s = execWriteRegion a s := rfl

theorem exec_setTimer (p : Byte) (c : BitVec 16) (e : Byte) (s : State) : exec (.setTimer p c e) s = execSetTimer p c e s := rfl

theorem exec_setEventMask (m : BitVec 16) (s : State) : exec (.setEventMask m) s = execSetEventMask m s := rfl

theorem exec_start (s : State) : exec .start s = execStart s := rfl

theorem exec_commit (s : State) : exec .commit s = execCommit s := rfl

theorem exec_stop (s : State) : exec .stop s = execStop s := rfl

theorem exec_recover (s : State) : exec .recover s = execRecover s := rfl

theorem exec_mark (m : MarkTag) (s : State) : exec (.mark m) s = execMark m s := rfl

theorem exec_rollback (k : Byte) (q : BitVec 64) (s : State) : exec (.rollback k q) s = execRollback k q s := rfl

theorem exec_softReset (s : State) : exec .softReset s = execSoftReset s := rfl

theorem exec_frameEnd (n : Nat) (s : State) : exec (.frameEnd n) s = execFrameEnd n s := rfl

/-! ## The event queue -/

/-- Settles O11: the three cases of an append. -/
theorem eventsAreQueued : Obligations.EventsAreQueued := by
  intro s k q d n
  have raised : s.raise k q d n =
      { s with port := s.port.append { kind := k, state := s.eng.state, seq := q, detail := d, count := n } } := rfl
  refine ⟨fun enabled room => ?_, fun enabled full => ?_, fun masked => ?_, ?_⟩
  · rw [raised, append_queued (by exact enabled) room]
  · rw [raised, append_dropped (by exact enabled) full]
  · rw [raised, append_masked (by exact masked)]
  · simp [State.alertLow]

/-! ## The end of a frame -/

theorem execFrameEnd_of_high {s : State} (hr : s.rstn = true) (n : Nat) :
    execFrameEnd n s = .next { s with eventNo := s.eventNo + 1, port := s.port.endFrame n } := running_of_high hr _

theorem endFrame_of_read {p : Port} {f : Frame} {n : Nat} (hf : p.frame = some f) (removes : f.removesEvent = true) (full : 20 ≤ n) :
    p.endFrame n = { p.pop with frame := none } := by
  simp [Port.endFrame, hf, removes, full]

theorem endFrame_of_other {p : Port} {n : Nat} (h : ∀ f, p.frame = some f → f.removesEvent = true → n < 20) :
    p.endFrame n = { p with frame := none } := by
  unfold Port.endFrame
  cases hf : p.frame with
  | none => rfl
  | some f =>
    have kept : ¬ (f.removesEvent = true ∧ 20 ≤ n) := fun ⟨removes, full⟩ => Nat.not_lt.mpr full (h f hf removes)
    simp only [if_neg kept]

/-- Settles O10: a frame removes the oldest record just when it read it and was clocked to the end. -/
theorem frameEndRemovesTheRecordRead : Obligations.FrameEndRemovesTheRecordRead := by
  intro s n hr
  refine ⟨fun f hf removes full => ?_, fun other => ?_⟩
  · rw [exec_frameEnd, execFrameEnd_of_high hr, endFrame_of_read hf removes full]
    cases h : s.port.events.tail <;> simp [Port.pop, h]
  · rw [exec_frameEnd, execFrameEnd_of_high hr, endFrame_of_other]
    intro f hf removes
    rcases other with none | short | ⟨g, hg, kept⟩
    · simp [hf] at none
    · exact short
    · obtain rfl : f = g := Option.some.inj (hf.symm.trans hg)
      simp [removes] at kept

/-! ## Refusals -/

theorem quiesceCommand_of_resetting {s : State} (h : s.eng.state = .resetting) (a : Action) :
    s.quiesceCommand a = s.reply .busy [] := by
  simp [State.quiesceCommand, h]

theorem execRollback_of_resetting {s : State} (hr : s.rstn = true) (h : s.eng.state = .resetting) (k : Byte) (q : BitVec 64) :
    execRollback k q s = .next (s.answered .busy (zeros 8)) := by
  rw [execRollback, running_of_high hr]
  simp [h, nextEvent_reply]

theorem execQuiesce_of_resetting {s : State} (hr : s.rstn = true) (h : s.eng.state = .resetting) (a : Action) :
    s.running (fun t => t.quiesceCommand a) = .next (s.answered .busy []) := by
  rw [running_of_high hr, quiesceCommand_of_resetting (by exact h), nextEvent_reply]

theorem execUnknown_of_high {s : State} (hr : s.rstn = true) (c : Byte) : execUnknown c s = .next (s.answered .unknown []) :=
  running_of_high hr _

/-! ## What SDO carries -/

theorem sdo_of_frame {s : State} (hr : s.rstn = true) {f : Frame} (hf : s.port.frame = some f) (edge : Nat) :
    s.sdo false edge = some (f.sdoBit edge) := by simp [State.sdo, hr, hf]

theorem sdoBit_of_byte (f : Frame) {n i : Nat} (h : i < 8) : f.sdoBit (8 * n + i) = (f.sdo n).getLsbD (7 - i) := by
  rw [Frame.sdoBit, show (8 * n + i) / 8 = n by omega, show (8 * n + i) % 8 = i by omega]


/-- Settles O12: every command but READ_STATUS begins with the test for RESETTING. -/
theorem busyOrUnknown : Obligations.BusyOrUnknown := by
  refine ⟨fun s hr h => ?_, fun c s hr => execUnknown_of_high hr c,
    fun s hr => ⟨fun f i hf hi => ⟨?_, fun n => ?_⟩, fun edge none => ?_, fun edge => ?_⟩⟩
  · simp only [exec_setLayout, exec_setAddressing, exec_writeRegion, exec_setTimer, exec_setEventMask, exec_readId, exec_readEvent,
      exec_readSegments, exec_readRegion, exec_mark, exec_rollback]
    have inOff := fun f => running_inOff_of_resetting (s := s) f hr h
    have busy := fun n f => running_unlessResetting_of_resetting (s := s) n f hr h
    refine ⟨fun c hc => ?_, fun a => inOff _, fun a v => inOff _, fun a => inOff _, fun p c e => busy _ _, fun m => busy _ _,
      busy _ _, busy _ _, busy _ _, fun i => busy _ _, fun m => busy _ _, fun k q => execRollback_of_resetting hr h k q⟩
    simp only [List.mem_cons, List.not_mem_nil, or_false] at hc
    rcases hc with rfl | rfl | rfl | rfl | rfl
    · rw [exec_start]; exact inOff _
    · rw [exec_commit]; exact execQuiesce_of_resetting hr h _
    · rw [exec_stop]; exact execQuiesce_of_resetting hr h _
    · rw [exec_recover]; exact inOff _
    · rw [exec_softReset]; exact busy _ _
  · have first := sdoBit_of_byte f (n := 0) hi
    rw [Nat.mul_zero, Nat.zero_add] at first
    rw [sdo_of_frame hr hf, first, Frame.sdo]
    cases f.result <;> rfl
  · rw [sdo_of_frame hr hf, sdoBit_of_byte f hi, Frame.sdo]
  · simp [State.sdo, hr, none]
  · simp [State.sdo]

end Sys2Proof.Machine
end


section
/-! SUPPORT. The tests of SET_ADDRESSING, WRITE_REGION and SET_TIMER (R35, R46, R51). -/

namespace Sys2Proof.Machine

/-! ## The fold set and the view bit -/

theorem and_ne_zero_iff {w : Nat} (x y : BitVec w) : x &&& y ≠ 0 ↔ ∃ k, x.getLsbD k = true ∧ y.getLsbD k = true := by
  constructor
  · intro h
    by_contra none
    refine h (BitVec.eq_of_getLsbD_eq fun k _ => ?_)
    simp only [not_exists, not_and, Bool.not_eq_true] at none
    cases hx : x.getLsbD k
    · simp [hx]
    · simp [none k hx]
  · rintro ⟨k, hx, hy⟩ h
    have := congrArg (BitVec.getLsbD · k) h
    simp [hx, hy] at this

theorem getLsbD_foldBits (a : Addressing) (k : Nat) :
    a.foldBits.getLsbD k = true ↔ ∃ i, i < 10 ∧ k = 30 + i ∧ a.fold.getLsbD i = true := by
  constructor
  · intro h
    simp [Addressing.foldBits] at h
    exact ⟨k - 30, by omega, by omega, h.2.2⟩
  · rintro ⟨i, hi, rfl, h⟩
    simp [Addressing.foldBits, h]; omega

theorem getLsbD_viewBits (a : Addressing) (k : Nat) : a.viewBits.getLsbD k = true ↔ a.viewBit = some k ∧ k < 40 := by
  unfold Addressing.viewBits
  cases a.viewBit with
  | none => simp
  | some b =>
    simp [BitVec.getLsbD_one]
    omega

/-- An address touches a bit of the fold set or the view bit (R20, R46, R51). -/
theorem touches_iff (a : Addressing) (x : Addr) :
    a.touches x = true ↔ (∃ i, i < 10 ∧ a.fold.getLsbD i = true ∧ x.getLsbD (30 + i) = true) ∨
      ∃ b, a.viewBit = some b ∧ x.getLsbD b = true := by
  rw [Addressing.touches, decide_eq_true_iff, and_ne_zero_iff]
  simp only [BitVec.getLsbD_or, Bool.or_eq_true, getLsbD_foldBits, getLsbD_viewBits]
  constructor
  · rintro ⟨k, hx, ⟨i, hi, rfl, hf⟩ | ⟨hv, hk⟩⟩
    · exact .inl ⟨i, hi, hf, hx⟩
    · exact .inr ⟨k, hv, hx⟩
  · rintro (⟨i, hi, hf, hx⟩ | ⟨b, hv, hx⟩)
    · exact ⟨_, hx, .inl ⟨i, hi, rfl, hf⟩⟩
    · exact ⟨b, hx, .inr ⟨hv, BitVec.lt_of_getLsbD hx⟩⟩

/-! ## SET_ADDRESSING -/

theorem fold_ge_iff (fold : BitVec 16) : 1024 ≤ fold.toNat ↔ ∃ i, 10 ≤ i ∧ fold.getLsbD i = true := by
  constructor
  · intro h
    by_contra none
    simp only [not_exists, not_and, Bool.not_eq_true] at none
    exact Nat.not_lt.mpr h (Nat.lt_pow_two_of_testBit (n := 10) _ none)
  · rintro ⟨i, hi, h⟩
    by_contra low
    have small : fold.toNat < 2 ^ i := Nat.lt_of_lt_of_le (Nat.lt_of_not_le low) (Nat.pow_le_pow_right (n := 2) (by decide) hi)
    rw [BitVec.getLsbD, Nat.testBit_lt_two_pow small] at h
    exact absurd h (by decide)

/-- The settings that SET_ADDRESSING's arguments spell (R46). -/
def addressing (fold : BitVec 16) (view : Byte) : Addressing :=
  { fold := fold.truncate 10, viewBit := if view = 0xFF then none else some view.toNat }

/-- The tests of SET_ADDRESSING that its own arguments decide (R46). -/
def addressingRefused (fold : BitVec 16) (view : Byte) : Prop :=
  (∃ i, 10 ≤ i ∧ fold.getLsbD i = true) ∨ (view ≠ 0xFF ∧ (view.toNat < 30 ∨ 39 < view.toNat)) ∨
    (30 ≤ view.toNat ∧ view.toNat ≤ 39 ∧ fold.getLsbD (view.toNat - 30) = true)

theorem addressingOf_of_refused {fold : BitVec 16} {view : Byte} (h : addressingRefused fold view) : addressingOf fold view = none := by
  unfold addressingOf
  rcases h with high | ⟨notNone, range⟩ | ⟨low, high, set⟩
  · rw [if_pos ((fold_ge_iff fold).mpr high)]
  · have out : ¬ (30 ≤ view.toNat ∧ view.toNat ≤ 39 ∧ fold.getLsbD (view.toNat - 30) = false) := by omega
    rw [if_neg notNone, if_neg out, ite_self]
  · have notNone : view ≠ 0xFF := by rintro rfl; exact absurd high (by decide)
    have out : ¬ (30 ≤ view.toNat ∧ view.toNat ≤ 39 ∧ fold.getLsbD (view.toNat - 30) = false) := by simp [set]
    rw [if_neg notNone, if_neg out, ite_self]

/-- A view byte that the tests pass is 0xFF or names a foldable bit. -/
theorem view_inRange {fold : BitVec 16} {view : Byte} (h : ¬ addressingRefused fold view) (none : view ≠ 0xFF) :
    30 ≤ view.toNat ∧ view.toNat ≤ 39 := by
  simp only [addressingRefused, not_or] at h
  have range : ¬ (view.toNat < 30 ∨ 39 < view.toNat) := fun out => h.2.1 ⟨none, out⟩
  omega

theorem addressingOf_of_not_refused {fold : BitVec 16} {view : Byte} (h : ¬ addressingRefused fold view) :
    addressingOf fold view = some (addressing fold view) := by
  have range := view_inRange h
  simp only [addressingRefused, not_or] at h
  obtain ⟨low, _, clear⟩ := h
  unfold addressingOf addressing
  rw [if_neg (mt (fold_ge_iff fold).mp low)]
  by_cases none : view = 0xFF
  · rw [if_pos none, if_pos none]
  · have inRange := range none
    rw [if_neg none, if_neg none, if_pos ⟨inRange.1, inRange.2, by simpa [inRange] using clear⟩]

/-- An enabled base touches the new fold set or view bit (R46). -/
theorem basesConflict_iff (s : State) {fold : BitVec 16} {view : Byte} (h : ¬ addressingRefused fold view) :
    s.basesConflict (addressing fold view) = true ↔ ∃ r ∈ s.regions.toList, r.enabled = true ∧
      ∃ i, i < 10 ∧ r.base.getLsbD (30 + i) = true ∧ (fold.getLsbD i = true ∨ view.toNat = 30 + i) := by
  have view_iff : ∀ x : Addr, (∃ b, (addressing fold view).viewBit = some b ∧ x.getLsbD b = true) ↔
      ∃ i, i < 10 ∧ x.getLsbD (30 + i) = true ∧ view.toNat = 30 + i := by
    intro x
    unfold addressing
    by_cases none : view = 0xFF
    · subst none
      simp; omega
    · simp only [if_neg none, Option.some.injEq]
      constructor
      · rintro ⟨b, rfl, hx⟩
        have inRange := view_inRange h none
        exact ⟨view.toNat - 30, by omega, by rwa [Nat.add_sub_cancel' inRange.1], by omega⟩
      · rintro ⟨i, _, hx, hv⟩
        exact ⟨_, hv, hx⟩
  unfold State.basesConflict
  rw [List.any_eq_true]
  refine exists_congr fun r => and_congr_right fun _ => ?_
  rw [Bool.and_eq_true]
  refine and_congr_right fun _ => ?_
  rw [touches_iff, view_iff]
  constructor
  · rintro (⟨i, hi, hf, hx⟩ | ⟨i, hi, hx, hv⟩)
    · exact ⟨i, hi, hx, .inl (by simpa [addressing, hi] using hf)⟩
    · exact ⟨i, hi, hx, .inr hv⟩
  · rintro ⟨i, hi, hx, hf | hv⟩
    · exact .inl ⟨i, hi, by simpa [addressing, hi] using hf, hx⟩
    · exact .inr ⟨i, hi, hx, hv⟩

/-- Settles O15, through the tests on the arguments and the test on the enabled bases. -/
theorem setAddressing : Obligations.SetAddressing := by
  intro fold view s hr
  simp only [exec_setAddressing]
  refine ⟨running_inOff_of_badState _ hr, fun off refused => ?_, fun off fits => ?_⟩
  · rw [execSetAddressing, running_inOff_of_off _ hr off]
    by_cases h : addressingRefused fold view
    · rw [addressingOf_of_refused h]; rfl
    · have conflict : s.nextEvent.basesConflict (addressing fold view) = true := by
        refine (basesConflict_iff s h).mpr ?_
        simp only [addressingRefused, not_or] at h
        obtain ⟨low, range, clear⟩ := h
        rcases refused with r | r | r | r
        · exact absurd r low
        · exact absurd r range
        · exact absurd r clear
        · exact r
      rw [addressingOf_of_not_refused h]
      simp only [conflict, if_true, nextEvent_reply]
  · rw [execSetAddressing, running_inOff_of_off _ hr off]
    have h : ¬ addressingRefused fold view := by
      rintro (r | r | r)
      · exact fits (.inl r)
      · exact fits (.inr (.inl r))
      · exact fits (.inr (.inr (.inl r)))
    have clear : s.nextEvent.basesConflict (addressing fold view) = false := by
      refine eq_false_of_ne_true fun conflict => fits (.inr (.inr (.inr ?_)))
      exact (basesConflict_iff s h).mp conflict
    rw [addressingOf_of_not_refused h]
    simp only [clear]; rfl

/-! ## WRITE_REGION -/

theorem modeOfCode_of_gt {n : Nat} (h : 2 < n) : modeOfCode n = none := by
  unfold modeOfCode; split
  case h_4 => rfl
  all_goals omega

theorem modeOfCode_of_le {c : Byte} (h : c.toNat ≤ 2) :
    modeOfCode c.toNat = some (if c = 0 then .pass else if c = 1 then .journaled else .frozen) := by
  have hc : c = 0 ∨ c = 1 ∨ c = 2 := by bv_omega
  rcases hc with rfl | rfl | rfl <;> rfl

theorem touches_eq_false_iff (a : Addressing) (x : Addr) :
    a.touches x = false ↔ (∀ i, i < 10 → a.fold.getLsbD i = true → x.getLsbD (30 + i) = false) ∧
      ∀ b, a.viewBit = some b → x.getLsbD b = false := by
  rw [← Bool.not_eq_true, touches_iff]
  simp only [not_or, not_exists, not_and, Bool.not_eq_true]

/-- The entry that WRITE_REGION's arguments spell (R51). -/
def writtenRegion (a : RegionArgs) : Region where
  enabled := decide (a.enabled = 1)
  base := a.base
  order := a.order.toNat
  mode := if a.mode = 0 then .pass else if a.mode = 1 then .journaled else .frozen

/-- The tests of WRITE_REGION but for the index (R51). -/
def RegionFits (a : RegionArgs) (ad : Addressing) : Prop :=
  a.enabled.toNat ≤ 1 ∧ a.mode.toNat ≤ 2 ∧ 12 ≤ a.order.toNat ∧ a.order.toNat ≤ 39 ∧ a.base.toNat % 2 ^ a.order.toNat = 0 ∧
    (∀ i, i < 10 → ad.fold.getLsbD i = true → a.base.getLsbD (30 + i) = false) ∧
    (∀ b, ad.viewBit = some b → a.base.getLsbD b = false)

theorem regionOf_of_fits {a : RegionArgs} {ad : Addressing} (h : RegionFits a ad) : regionOf a ad = some (writtenRegion a) := by
  obtain ⟨enabled, mode, low, high, aligned, fold, view⟩ := h
  simp only [regionOf, modeOfCode_of_le mode]
  exact if_pos ⟨enabled, low, high, aligned, (touches_eq_false_iff ad a.base).mpr ⟨fold, view⟩⟩

theorem regionOf_of_not_fits {a : RegionArgs} {ad : Addressing} (h : ¬ RegionFits a ad) : regionOf a ad = none := by
  by_cases mode : a.mode.toNat ≤ 2
  · simp only [regionOf, modeOfCode_of_le mode]
    refine if_neg fun ⟨enabled, low, high, aligned, clear⟩ => h ?_
    obtain ⟨fold, view⟩ := (touches_eq_false_iff ad a.base).mp clear
    exact ⟨enabled, mode, low, high, aligned, fold, view⟩
  · simp only [regionOf, modeOfCode_of_gt (Nat.lt_of_not_le mode)]

theorem execWriteRegion_of_index {a : RegionArgs} {s : State} (hr : s.rstn = true) (off : s.eng.state = .off)
    (h : ¬ a.index.toNat < 16) : execWriteRegion a s = .next (s.answered .badArg []) := by
  rw [execWriteRegion, running_inOff_of_off _ hr off, dif_neg h, nextEvent_reply]

theorem execWriteRegion_of_not_fits {a : RegionArgs} {s : State} (hr : s.rstn = true) (off : s.eng.state = .off)
    (hi : a.index.toNat < 16) (h : ¬ RegionFits a s.addressing) : execWriteRegion a s = .next (s.answered .badArg []) := by
  rw [execWriteRegion, running_inOff_of_off _ hr off, dif_pos hi, regionOf_of_not_fits (by exact h)]; rfl

theorem execWriteRegion_of_fits {a : RegionArgs} {s : State} (hr : s.rstn = true) (off : s.eng.state = .off)
    (hi : a.index.toNat < 16) (h : RegionFits a s.addressing) :
    execWriteRegion a s = .next (State.answered { s with regions := s.regions.set a.index.toNat (writtenRegion a) hi } .accepted []) := by
  rw [execWriteRegion, running_inOff_of_off _ hr off, dif_pos hi, regionOf_of_fits (by exact h)]; rfl

/-- Settles O16, through the tests on the entry. -/
theorem writeRegion : Obligations.WriteRegion := by
  intro a s hr
  simp only [exec_writeRegion]
  refine ⟨running_inOff_of_badState _ hr, fun off invalid => ?_, fun off valid => execWriteRegion_of_fits hr off valid.1 valid.2⟩
  by_cases hi : a.index.toNat < 16
  · exact execWriteRegion_of_not_fits hr off hi fun fits => invalid ⟨hi, fits⟩
  · exact execWriteRegion_of_index hr off hi

/-! ## SET_TIMER and SET_EVENT_MASK -/

theorem tickOfCode_of_gt {n : Nat} (h : 3 < n) : tickOfCode n = none := by
  unfold tickOfCode; split
  case h_5 => rfl
  all_goals omega

theorem configured_of_bad (m : MarkTimer) {k : Byte} {c : BitVec 16} {e : Byte} (h : 3 < k.toNat ∨ c = 0 ∨ 1 < e.toNat) :
    m.configured k c e = none := by
  unfold MarkTimer.configured
  rcases h with h | h | h
  · rw [tickOfCode_of_gt h]
  · split
    · rfl
    · exact if_neg fun ok => ok.1 h
  · split
    · rfl
    · exact if_neg fun ok => Nat.not_lt.mpr ok.2 h

theorem configured_of_code (m : MarkTimer) {k : Byte} {c : BitVec 16} {e : Byte} {p : TickPeriod} (h : tickOfCode k.toNat = some p)
    (hc : c ≠ 0) (he : e.toNat ≤ 1) : m.configured k c e = some { m with
      tick := p, compare := c.toNat, enabled := decide (e = 1), counter := 0, phase := 0, startCounter := 0, startPhase := 0 } := by
  unfold MarkTimer.configured
  simp only [h]
  exact if_pos ⟨hc, he⟩

theorem tickOfCode_of_mem {k : Byte} {p : TickPeriod}
    (h : (k, p) ∈ [((0 : Byte), TickPeriod.us1), (1, .us10), (2, .us100), (3, .ms1)]) : tickOfCode k.toNat = some p := by
  simp only [List.mem_cons, Prod.mk.injEq, List.not_mem_nil, or_false] at h
  rcases h with ⟨rfl, rfl⟩ | ⟨rfl, rfl⟩ | ⟨rfl, rfl⟩ | ⟨rfl, rfl⟩
  all_goals rfl

/-- Settles O17, through the tests on SET_TIMER's arguments. -/
theorem setTimerAndMask : Obligations.SetTimerAndMask := by
  intro s hr notResetting
  simp only [exec_setTimer, exec_setEventMask]
  refine ⟨fun k c e => ⟨fun bad => ?_, fun p code hc he => ?_⟩, fun m => ?_⟩
  · rw [execSetTimer, running_unlessResetting_of_ne _ _ hr notResetting, configured_of_bad _ bad]; rfl
  · rw [execSetTimer, running_unlessResetting_of_ne _ _ hr notResetting, configured_of_code _ (tickOfCode_of_mem code) hc he]; rfl
  · rw [execSetEventMask, running_unlessResetting_of_ne _ _ hr notResetting]; rfl

end Sys2Proof.Machine
end


section
/-! SUPPORT. A frame decodes to the command it was made from (R182, R183): what a code's argument bytes spell, and which bits and
bytes a frame must hold. -/

namespace Sys2Proof

/-! ## A frame's bytes -/

/-- A frame spells a command: its code takes the arguments that follow it, and they give the command. -/
structure Spells (code : Byte) (args : List Byte) (i : Instr) : Prop where
  count : argCount code = some args.length
  command : commandOf code args = some i

theorem Spells.decodes {code : Byte} {args : List Byte} {i : Instr} (h : Spells code args i) (rest : List Byte) :
    frameCommand (code :: args ++ rest) = some i := by
  simp [frameCommand, h.count, h.command]

theorem Spells.short {code : Byte} {args : List Byte} {i : Instr} (h : Spells code args i) {k : Nat} (hk : k < args.length + 1) :
    frameCommand ((code :: args).take k) = none := by
  cases k with
  | zero => rfl
  | succ k =>
    have few : (args.take k).length < args.length := by simp; omega
    simp only [List.take_succ_cons, frameCommand, h.count, if_pos few]

theorem toBytes_byte (b : Byte) : toBytes 1 b.toNat = [b] := by simp [toBytes]

/-- A word is read from the field that holds it. -/
theorem ofNat_argField {l : List (Nat × Nat)} {w : Nat} (x : BitVec w) (i : Nat) {k n : Nat} (hi : l[i]? = some (n, x.toNat))
    (hk : ((l.take i).map Prod.fst).sum = k) (hn : w = 8 * n) : BitVec.ofNat w (argField (fieldBytes l) k n) = x := by
  rw [argField_fieldBytes i hi hk (hn ▸ x.isLt), BitVec.ofNat_toNat, BitVec.setWidth_eq]

theorem setLayout_spelled (a : LayoutArgs) :
    Spells 0x10 (fieldBytes [(5, a.ringBase.toNat), (1, a.order.toNat), (5, a.controlLine.toNat), (1, a.policy.toNat),
      (2, a.stallLimit.toNat), (2, a.stride.toNat), (1, a.highWater.toNat)]) (.setLayout a) where
  count := by rw [fieldBytes_length]; rfl
  command := by
    refine congrArg (some ∘ Instr.setLayout) ?_
    congr 1
    · exact ofNat_argField a.ringBase 0 rfl rfl rfl
    · exact ofNat_argField a.order 1 rfl rfl rfl
    · exact ofNat_argField a.controlLine 2 rfl rfl rfl
    · exact ofNat_argField a.policy 3 rfl rfl rfl
    · exact ofNat_argField a.stallLimit 4 rfl rfl rfl
    · exact ofNat_argField a.stride 5 rfl rfl rfl
    · exact ofNat_argField a.highWater 6 rfl rfl rfl

theorem setAddressing_spelled (f : BitVec 16) (v : Byte) :
    Spells 0x11 (fieldBytes [(2, f.toNat), (1, v.toNat)]) (.setAddressing f v) where
  count := by rw [fieldBytes_length]; rfl
  command := congrArg some (congrArg₂ Instr.setAddressing (ofNat_argField f 0 rfl rfl rfl) (ofNat_argField v 1 rfl rfl rfl))

theorem writeRegion_spelled (a : RegionArgs) :
    Spells 0x12 (fieldBytes [(1, a.index.toNat), (1, a.enabled.toNat), (1, a.mode.toNat), (1, a.order.toNat), (5, a.base.toNat)])
      (.writeRegion a) where
  count := by rw [fieldBytes_length]; rfl
  command := by
    refine congrArg (some ∘ Instr.writeRegion) ?_
    congr 1
    · exact ofNat_argField a.index 0 rfl rfl rfl
    · exact ofNat_argField a.enabled 1 rfl rfl rfl
    · exact ofNat_argField a.mode 2 rfl rfl rfl
    · exact ofNat_argField a.order 3 rfl rfl rfl
    · exact ofNat_argField a.base 4 rfl rfl rfl

theorem setTimer_spelled (t : Byte) (c : BitVec 16) (e : Byte) :
    Spells 0x13 (fieldBytes [(1, t.toNat), (2, c.toNat), (1, e.toNat)]) (.setTimer t c e) where
  count := by rw [fieldBytes_length]; rfl
  command := by
    refine congrArg some ?_
    congr 1
    · exact ofNat_argField t 0 rfl rfl rfl
    · exact ofNat_argField c 1 rfl rfl rfl
    · exact ofNat_argField e 2 rfl rfl rfl

theorem setEventMask_spelled (m : BitVec 16) : Spells 0x14 (fieldBytes [(2, m.toNat)]) (.setEventMask m) where
  count := by rw [fieldBytes_length]; rfl
  command := congrArg (some ∘ Instr.setEventMask) (ofNat_argField m 0 rfl rfl rfl)

theorem readRegion_spelled (i : Byte) : Spells 0x05 (fieldBytes [(1, i.toNat)]) (.readRegion i) where
  count := by rw [fieldBytes_length]; rfl
  command := congrArg (some ∘ Instr.readRegion) (ofNat_argField i 0 rfl rfl rfl)

theorem mark_spelled (t : BitVec 32) : Spells 0x22 (fieldBytes [(4, t.toNat)]) (.mark t) where
  count := by rw [fieldBytes_length]; rfl
  command := congrArg (some ∘ Instr.mark) (ofNat_argField t 0 rfl rfl rfl)

theorem rollback_spelled (k : Byte) (q : BitVec 64) :
    Spells 0x23 (fieldBytes [(1, k.toNat), (8, q.toNat)]) (.rollback k q) where
  count := by rw [fieldBytes_length]; rfl
  command := congrArg some (congrArg₂ Instr.rollback (ofNat_argField k 0 rfl rfl rfl) (ofNat_argField q 1 rfl rfl rfl))

/-- A management command's frame is its code and its arguments, or the one byte that is no code. -/
theorem frameBytes_spells {i : Instr} {b : List Byte} (wf : i.wellFormed = true) (h : frameBytes i = some b) :
    (∃ code args, b = code :: args ∧ Spells code args i) ∨ ∃ c, b = [c] ∧ i = .unknown c ∧ argCount c = none := by
  cases i with
  | unknown c => exact .inr ⟨c, (Option.some.inj h).symm, rfl, by simpa [Instr.wellFormed] using wf⟩
  | readId | readStatus | readEvent | readSegments | start | commit | stop | recover | softReset =>
    exact .inl ⟨_, [], (Option.some.inj h).symm, rfl, rfl⟩
  | readRegion i => exact .inl ⟨_, _, by simpa [frameBytes, fieldBytes, toBytes_byte] using h.symm, readRegion_spelled i⟩
  | setLayout a => exact .inl ⟨_, _, by simpa [frameBytes, fieldBytes, toBytes_byte] using h.symm, setLayout_spelled a⟩
  | setAddressing f v => exact .inl ⟨_, _, by simpa [frameBytes, fieldBytes, toBytes_byte] using h.symm, setAddressing_spelled f v⟩
  | writeRegion a => exact .inl ⟨_, _, by simpa [frameBytes, fieldBytes, toBytes_byte] using h.symm, writeRegion_spelled a⟩
  | setTimer t c e => exact .inl ⟨_, _, by simpa [frameBytes, fieldBytes, toBytes_byte] using h.symm, setTimer_spelled t c e⟩
  | setEventMask m => exact .inl ⟨_, _, by simpa [frameBytes, fieldBytes, toBytes_byte] using h.symm, setEventMask_spelled m⟩
  | mark t => exact .inl ⟨_, _, by simpa [frameBytes, fieldBytes, toBytes_byte] using h.symm, mark_spelled t⟩
  | rollback k q => exact .inl ⟨_, _, by simpa [frameBytes, fieldBytes, toBytes_byte] using h.symm, rollback_spelled k q⟩
  | _ => exact absurd h (by simp [frameBytes])

theorem frameCommand_of_frameBytes {i : Instr} {b : List Byte} (wf : i.wellFormed = true) (h : frameBytes i = some b) :
    (∀ rest, frameCommand (b ++ rest) = some i) ∧ ∀ k, k < b.length → frameCommand (b.take k) = none := by
  rcases frameBytes_spells wf h with ⟨code, args, rfl, spells⟩ | ⟨c, rfl, rfl, none⟩
  · exact ⟨spells.decodes, fun k hk => spells.short hk⟩
  · refine ⟨fun rest => by simp [frameCommand, none], fun k hk => ?_⟩
    obtain rfl : k = 0 := by simpa using hk
    rfl

/-! ## A frame's bits -/

/-- The bits of a byte, most significant bit first (R182). -/
def bitsOf (c : Byte) : List Bool := (List.range 8).map fun k => c.getLsbD (7 - k)

theorem bitsOf_length (c : Byte) : (bitsOf c).length = 8 := by simp [bitsOf]

theorem byteOfBits_bitsOf (c : Byte) : byteOfBits (bitsOf c) = c := by
  revert c
  decide

/-- Eight bits at the front of a frame are its first byte. -/
theorem bytesOfBits_bitsOf (c : Byte) (rest : List Bool) : bytesOfBits (bitsOf c ++ rest) = c :: bytesOfBits rest := by
  conv_rhs => rw [← byteOfBits_bitsOf c]
  rfl

theorem bytesOfBits_short {l : List Bool} (h : l.length < 8) : bytesOfBits l = [] := by
  unfold bytesOfBits
  split
  · simp at h; omega
  · rfl

theorem bytesOfBits_append (b : List Byte) (rest : List Bool) : bytesOfBits (b.flatMap bitsOf ++ rest) = b ++ bytesOfBits rest := by
  induction b with
  | nil => rfl
  | cons c cs ih => rw [List.flatMap_cons, List.append_assoc, bytesOfBits_bitsOf, ih]; rfl

/-- The bytes that the first k bits complete. -/
theorem bytesOfBits_take (b : List Byte) (k : Nat) (h : k < 8 * b.length) :
    bytesOfBits ((b.flatMap bitsOf).take k) = b.take (k / 8) := by
  induction b generalizing k with
  | nil => simp at h
  | cons c cs ih =>
    by_cases few : k < 8
    · rw [bytesOfBits_short (by simp; omega), Nat.div_eq_of_lt few]; rfl
    · have eight : ((c :: cs).flatMap bitsOf).take k = bitsOf c ++ (cs.flatMap bitsOf).take (k - 8) := by
        rw [List.flatMap_cons, List.take_append, bitsOf_length, List.take_of_length_le (by rw [bitsOf_length]; omega)]
      rw [eight, bytesOfBits_bitsOf, ih (k - 8) (by simp at h; omega), show k / 8 = (k - 8) / 8 + 1 by omega, List.take_succ_cons]

/-- Settles O13: the frame's bytes spell the command, and its bits spell its bytes. -/
theorem frameDecodesItsCommand : Obligations.FrameDecodesItsCommand := by
  intro i b wf h
  obtain ⟨decodes, short⟩ := frameCommand_of_frameBytes wf h
  refine ⟨decodes, short, fun rest => ?_, fun k hk => ?_⟩
  · exact (congrArg frameCommand (bytesOfBits_append b rest)).trans (decodes _)
  · exact (congrArg frameCommand (bytesOfBits_take b k hk)).trans (short _ (by omega))

end Sys2Proof
end


section
/-! SUPPORT. The engine commands (R20, R31, R124, R130, R134, R135, R142, R157): what each answers, and what an accepted one begins. -/

namespace Sys2Proof.Machine

/-! ## The placement checks -/

theorem placeable_iff (s : State) (x : Addr) : s.placeable x = true ↔ s.addressing.touches x = false ∧ s.mode x = .pass := by
  simp [State.placeable]

/-- Settles O19: the conjuncts of the check, with the ring's lines counted out. -/
theorem placementChecks : Obligations.PlacementChecks := by
  intro s
  have lines : s.layout.ringLines.all s.placeable = true ↔ ∀ i, i < 2 * 2 ^ s.layout.order →
      s.addressing.touches (.ofNat 40 (s.layout.ringBase.toNat + 64 * i)) = false ∧
      s.mode (.ofNat 40 (s.layout.ringBase.toNat + 64 * i)) = .pass := by
    simp only [Layout.ringLines, List.all_map, List.all_eq_true, List.mem_range, Function.comp_apply, placeable_iff, Layout.capacity]
  have outside : (!s.layout.inRing s.layout.controlLine) = true ↔ ¬ (s.layout.ringBase.toNat ≤ s.layout.controlLine.toNat ∧
      s.layout.controlLine.toNat < s.layout.ringBase.toNat + 128 * 2 ^ s.layout.order) := by
    rw [Bool.not_eq_true', ← Bool.not_eq_true]
    simp only [Layout.inRing, Bool.and_eq_true, decide_eq_true_iff]
    rfl
  rw [State.placementOk, Bool.and_eq_true, Bool.and_eq_true, Bool.and_eq_true, lines, outside, placeable_iff, decide_eq_true_iff]
  simp only [and_assoc]

/-! ## START and RECOVER -/

theorem acceptStart_of_failed {s : State} (h : s.placementOk = false) : s.acceptStart = s.reply .badLayout [] := by
  simp [State.acceptStart, h]

theorem acceptRecover_of_failed {s : State} (h : s.placementOk = false) : s.acceptRecover = s.reply .badLayout [] := by
  simp [State.acceptRecover, h]

/-- Settles O20: taken in OFF, with the placement checks passed or failed. -/
theorem start : Obligations.Start := by
  intro s hr
  simp only [exec_start]
  refine ⟨running_inOff_of_resetting _ hr, running_inOff_of_badState _ hr, fun off failed => ?_, fun off passed => ?_⟩
  · rw [execStart, running_inOff_of_off _ hr off, acceptStart_of_failed (by exact failed), nextEvent_reply]
  · have ok : s.nextEvent.placementOk = true := passed
    rw [execStart, running_inOff_of_off _ hr off, State.acceptStart, if_pos ok]; rfl

/-- Settles O21: as START, with the scan unit's initial values. -/
theorem recover : Obligations.Recover := by
  intro s hr
  simp only [exec_recover]
  refine ⟨running_inOff_of_resetting _ hr, running_inOff_of_badState _ hr, fun off failed => ?_, fun off passed => ⟨scanOf 0, ?_, ?_⟩⟩
  · rw [execRecover, running_inOff_of_off _ hr off, acceptRecover_of_failed (by exact failed), nextEvent_reply]
  · have ok : s.nextEvent.placementOk = true := passed
    rw [execRecover, running_inOff_of_off _ hr off, State.acceptRecover, if_pos ok]; rfl
  · exact ⟨rfl, rfl, rfl, rfl, rfl, rfl, rfl⟩

/-! ## Quiescing begins -/

theorem quiesceCommand_of_journaling {s : State} (h : s.eng.state ∈ [EngineState.active, .stalled, .broken]) (a : Action) :
    s.quiesceCommand a = ((s.beginQuiesce a).reply .accepted []).finish := by
  simp only [List.mem_cons, List.not_mem_nil, or_false] at h
  unfold State.quiesceCommand
  rcases h with h | h | h
  all_goals rw [h]

/-- The commands of R134 and R135 with the action each begins. -/
theorem exec_quiesce {c : Instr} {a : Action} (h : (c, a) ∈ [(Instr.commit, Action.commit), (.stop, .stop)]) (s : State) :
    exec c s = s.running fun t => t.quiesceCommand a := by
  simp only [List.mem_cons, Prod.mk.injEq, List.not_mem_nil, or_false] at h
  rcases h with ⟨rfl, rfl⟩ | ⟨rfl, rfl⟩
  all_goals rfl

theorem exec_quiesce_of_journaling {c : Instr} {a : Action} (hc : (c, a) ∈ [(Instr.commit, Action.commit), (.stop, .stop)])
    {s : State} (hr : s.rstn = true) (h : s.eng.state ∈ [EngineState.active, .stalled, .broken]) :
    exec c s = .next ((s.nextEvent.beginQuiesce a).reply .accepted []).finish := by
  rw [exec_quiesce hc, running_of_high hr, quiesceCommand_of_journaling (by exact h)]

/-- What each kind of ROLLBACK names (R142). -/
def Names (s : State) (kind : Byte) (seq : BitVec 64) (m : Nat) : Prop :=
  (kind = 0 ∧ m = s.segmentStart) ∨ (kind = 1 ∧ m = 0 ∧ s.ring.head = 0 ∧ s.segments.head?.map Segment.seq = some 0) ∨
    (kind = 2 ∧ m = seq.toNat ∧ ∃ e ∈ s.segments, e.seq = seq.toNat)

theorem rollbackTarget_of_names {s : State} {kind : Byte} {seq : BitVec 64} {m : Nat} (h : Names s kind seq m) :
    kind.toNat ≤ 2 ∧ s.rollbackTarget kind.toNat seq.toNat = some m := by
  rcases h with ⟨rfl, rfl⟩ | ⟨rfl, rfl, head, first⟩ | ⟨rfl, rfl, listed⟩
  · exact ⟨by decide, rfl⟩
  · exact ⟨by decide, if_pos ⟨head, first⟩⟩
  · exact ⟨by decide, if_pos (by simpa using listed)⟩

theorem abovePending_of_le {s : State} {m : Nat} (h : ∀ p, s.eng.pendingTarget = some p → m ≤ p) : s.abovePending m = false := by
  unfold State.abovePending
  split
  · simpa using h _ ‹_›
  · rfl

theorem exec_rollback_of_target {s : State} (hr : s.rstn = true) (h : s.eng.state ∈ [EngineState.active, .stalled])
    {kind : Byte} {seq : BitVec 64} {m : Nat} (named : Names s kind seq m) (pending : ∀ p, s.eng.pendingTarget = some p → m ≤ p) :
    exec (.rollback kind seq) s = .next ((s.nextEvent.beginQuiesce (.rollback m)).reply .accepted (toBytes 8 m)).finish := by
  obtain ⟨kindOk, target⟩ := rollbackTarget_of_names named
  have taken : s.nextEvent.tryRollback kind.toNat seq.toNat =
      ((s.nextEvent.beginQuiesce (.rollback m)).reply .accepted (toBytes 8 m)).finish := by
    have target' : s.nextEvent.rollbackTarget kind.toNat seq.toNat = some m := target
    have below : s.nextEvent.abovePending m = false := abovePending_of_le pending
    unfold State.tryRollback
    rw [if_neg (Nat.not_lt.mpr kindOk), target']
    simp only [below, Bool.false_eq_true, if_false]
  rw [exec_rollback, execRollback, running_of_high hr]
  simp only [List.mem_cons, List.not_mem_nil, or_false] at h
  rcases h with h | h
  all_goals simp only [nextEvent_frame, h, taken]

/-- An occupied slot keeps the quiescing that has just begun from ending (R132). -/
theorem beginQuiesce_finish {s : State} (settled : s.Settled) (occupied : s.slots ≠ []) (a : Action) (res : MgmtResult)
    (data : List Byte) : ((s.nextEvent.beginQuiesce a).reply res data).finish = (s.nextEvent.beginQuiesce a).reply res data := by
  refine finish_of_same settled rfl ?_ rfl
  cases hs : s.slots with
  | nil => exact absurd hs occupied
  | cons j l => simp [State.quiesceDue, State.beginQuiesce, hs]

/-- Settles O22: an occupied slot keeps the quiescing from ending at once. -/
theorem quiescingBegins : Obligations.QuiescingBegins := by
  intro s hr settled occupied
  refine ⟨fun c a hc state => ?_, fun kind seq m state named pending => ?_⟩
  · rw [exec_quiesce_of_journaling hc hr state, beginQuiesce_finish settled occupied]; rfl
  · rw [exec_rollback_of_target hr state named pending, beginQuiesce_finish settled occupied]; rfl

/-! ## Quiescing ends at once -/

/-- With no occupied slot the action is carried out in the same event, and nothing more becomes due (R132). -/
theorem beginQuiesce_ends {s : State} (settled : s.Settled) (free : s.slots = []) (a : Action) (res : MgmtResult) (data : List Byte) :
    ((s.nextEvent.beginQuiesce a).reply res data).finish = ((s.nextEvent.beginQuiesce a).reply res data).endQuiesce := by
  have due : ((s.nextEvent.beginQuiesce a).reply res data).quiesceDue = true := quiesceDue_iff.mpr ⟨rfl, rfl, free⟩
  have aim := endQuiesce_state due
  have hold : ((s.nextEvent.beginQuiesce a).reply res data).endQuiesce.hold = s.hold := by
    unfold State.endQuiesce; split <;> simp [State.openingStep1, State.beginRollback, State.beginQuiesce]
  generalize (s.nextEvent.beginQuiesce a).reply res data = u at due aim hold
  have checked : u.checkQuiesce = u.endQuiesce := if_pos due
  have decided : u.endQuiesce.settle = u.endQuiesce :=
    settle_of_quiet (by simpa [State.firstReady, hold] using settled.ready) (by rw [hold]; exact settled.waiting)
  have resetting : u.endQuiesce.eng.state ≠ .resetting := by intro h; simp [h] at aim
  rw [State.finish, checked, decided, checkReset_of_not_due (by simp [State.resetDue, resetting])]

/-- Settles O23: with every slot free the action follows at once, and its status write is the same before the answer and after it. -/
theorem quiescingEndsAtOnce : Obligations.QuiescingEndsAtOnce := by
  intro s hr settled free
  refine ⟨fun state => ⟨?_, ?_⟩, fun kind seq m state named pending => ?_⟩
  · rw [exec_quiesce_of_journaling (a := .commit) (by simp) hr state, beginQuiesce_ends settled free]; rfl
  · rw [exec_quiesce_of_journaling (a := .stop) (by simp) hr state, beginQuiesce_ends settled free]; rfl
  · rw [exec_rollback_of_target hr state named pending, beginQuiesce_ends settled free]; rfl

/-! ## Turned away -/

theorem quiesceCommand_of_off {s : State} (h : s.eng.state = .off) (a : Action) : s.quiesceCommand a = s.reply .badState [] := by
  simp [State.quiesceCommand, h]

/-- The states in which an engine command waits for the engine (R139). -/
abbrev longStates : List EngineState := [.opening, .quiescing, .rolling, .closing, .scanning, .resetting]

theorem quiesceCommand_of_long {s : State} (h : s.eng.state ∈ longStates) (a : Action) : s.quiesceCommand a = s.reply .busy [] := by
  simp only [List.mem_cons, List.not_mem_nil, or_false] at h
  unfold State.quiesceCommand
  rcases h with h | h | h | h | h | h
  all_goals rw [h]

theorem execRollback_of_badState {s : State} (hr : s.rstn = true) (h : s.eng.state ∈ [EngineState.off, .broken]) (k : Byte)
    (q : BitVec 64) : execRollback k q s = .next (s.answered .badState (List.replicate 8 0)) := by
  simp only [List.mem_cons, List.not_mem_nil, or_false] at h
  rw [execRollback, running_of_high hr]
  rcases h with h | h
  all_goals simp only [nextEvent_frame, h, nextEvent_reply, zeros]

theorem execRollback_of_long {s : State} (hr : s.rstn = true) (h : s.eng.state ∈ longStates) (k : Byte)
    (q : BitVec 64) : execRollback k q s = .next (s.answered .busy (List.replicate 8 0)) := by
  simp only [List.mem_cons, List.not_mem_nil, or_false] at h
  rw [execRollback, running_of_high hr]
  rcases h with h | h | h | h | h | h
  all_goals simp only [nextEvent_frame, h, nextEvent_reply, zeros]

theorem execRollback_of_journaling {s : State} (hr : s.rstn = true) (h : s.eng.state ∈ [EngineState.active, .stalled]) (k : Byte)
    (q : BitVec 64) : execRollback k q s = .next (s.nextEvent.tryRollback k.toNat q.toNat) := by
  simp only [List.mem_cons, List.not_mem_nil, or_false] at h
  rw [execRollback, running_of_high hr]
  rcases h with h | h
  all_goals simp only [nextEvent_frame, h]

theorem tryRollback_of_kind {s : State} {k : Nat} (h : 2 < k) (q : Nat) : s.tryRollback k q = s.reply .badArg (zeros 8) := if_pos h

theorem tryRollback_of_none {s : State} {k q : Nat} (hk : k ≤ 2) (h : s.rollbackTarget k q = none) :
    s.tryRollback k q = s.reply .badTarget (zeros 8) := by
  rw [State.tryRollback, if_neg (Nat.not_lt.mpr hk), h]

/-- A target above the pending one is refused, held or not (R142). -/
theorem tryRollback_of_above {s : State} {k q m p : Nat} (hk : k ≤ 2) (h : ∀ n, s.rollbackTarget k q = some n → n = m)
    (pending : s.eng.pendingTarget = some p) (above : p < m) : s.tryRollback k q = s.reply .badTarget (zeros 8) := by
  cases target : s.rollbackTarget k q with
  | none => exact tryRollback_of_none hk target
  | some n =>
    obtain rfl := h n target
    have refused : s.abovePending n = true := by simp [State.abovePending, pending, above]
    rw [State.tryRollback, if_neg (Nat.not_lt.mpr hk), target]
    exact if_pos refused

/-- Settles O24, by the states in turn, and in ACTIVE and STALLED by the tests of ROLLBACK in turn. -/
theorem quiescingTurnedAway : Obligations.QuiescingTurnedAway := by
  intro s hr
  refine ⟨fun c hc => ?_, fun kind seq => ?_⟩
  · obtain ⟨a, ha⟩ : ∃ a, (c, a) ∈ [(Instr.commit, Action.commit), (.stop, .stop)] := by
      simp only [List.mem_cons, List.not_mem_nil, or_false] at hc
      rcases hc with rfl | rfl
      · exact ⟨.commit, by simp⟩
      · exact ⟨.stop, by simp⟩
    rw [exec_quiesce ha, running_of_high hr]
    refine ⟨fun off => ?_, fun long => ?_⟩
    · rw [quiesceCommand_of_off (by exact off), nextEvent_reply]
    · rw [quiesceCommand_of_long (by exact long), nextEvent_reply]
  simp only [exec_rollback]
  refine ⟨fun state => execRollback_of_badState hr state _ _, fun state => execRollback_of_long hr state _ _, fun state => ?_⟩
  rw [execRollback_of_journaling hr state]
  refine ⟨fun h => ?_, ?_, ?_, fun p pending => ⟨?_, ?_⟩⟩
  · rw [tryRollback_of_kind h]; rfl
  · rintro rfl lost
    have target : s.nextEvent.rollbackTarget (1 : Byte).toNat seq.toNat = none :=
      if_neg fun held => lost.elim (fun h => by simp_all) fun h => h held.2
    rw [tryRollback_of_none (by decide) target]; rfl
  · rintro rfl unlisted
    have target : s.nextEvent.rollbackTarget (2 : Byte).toNat seq.toNat = none := if_neg (by simpa using unlisted)
    rw [tryRollback_of_none (by decide) target]; rfl
  · rintro rfl above
    have target : ∀ n, s.nextEvent.rollbackTarget (0 : Byte).toNat seq.toNat = some n → n = s.segmentStart :=
      fun n h => (Option.some.inj h).symm
    rw [tryRollback_of_above (by decide) target (by exact pending) above]; rfl
  · rintro rfl above
    have target : ∀ n, s.nextEvent.rollbackTarget (2 : Byte).toNat seq.toNat = some n → n = seq.toNat := by
      intro n h
      have named : (if s.segments.any (fun e => decide (e.seq = seq.toNat)) then some seq.toNat else none) = some n := h
      split at named
      · exact (Option.some.inj named).symm
      · exact absurd named (by simp)
    rw [tryRollback_of_above (by decide) target (by exact pending) above]; rfl

/-! ## MARK -/

theorem execMark_of_ne {s : State} (hr : s.rstn = true) (h : s.eng.state ≠ .resetting) (tag : MarkTag) :
    execMark tag s = .next (s.nextEvent.markCommand tag) := running_unlessResetting_of_ne _ _ hr h

theorem markCommand_refused {s : State} {why : MgmtResult} (h : s.markRefusal = some why) (tag : MarkTag) :
    s.nextEvent.markCommand tag = s.answered why (List.replicate 8 0) := by
  have refused : s.nextEvent.markRefusal = some why := h
  rw [State.markCommand, refused]; rfl

theorem markCommand_accepted {s : State} (h : s.markRefusal = none) (tag : MarkTag) :
    s.nextEvent.markCommand tag = (s.nextEvent.acceptMark .management tag).reply .accepted (toBytes 8 s.ring.tail) := by
  have accepted : s.nextEvent.markRefusal = none := h
  rw [State.markCommand, accepted]; rfl

/-- The first failing condition of R30, and the acceptance of R29. -/
theorem markRefusal_of_state {s : State} (h : s.eng.state ≠ .active) : s.markRefusal = some .badState := if_pos h

theorem markRefusal_of_list {s : State} (h : s.eng.state = .active) (full : 16 ≤ s.segments.length) :
    s.markRefusal = some .listFull := by
  rw [State.markRefusal, if_neg (by simpa using h), if_pos (by exact full)]

theorem markRefusal_of_slots {s : State} (h : s.eng.state = .active) (room : s.segments.length < 16) (full : 8 ≤ s.slots.length) :
    s.markRefusal = some .busy := by
  have taken : s.slotFree = false := decide_eq_false (Nat.not_lt.mpr full)
  rw [State.markRefusal, if_neg (by simpa using h), if_neg (by simpa [Config.segmentPlaces] using room), if_pos (by simp [taken])]

theorem markRefusal_of_ring {s : State} (h : s.eng.state = .active) (room : s.segments.length < 16) (free : s.slots.length < 8)
    (full : s.layout.capacity ≤ s.occupancy) : s.markRefusal = some .ringFull := by
  have slot : s.slotFree = true := decide_eq_true free
  have space : s.hasSpace = false := decide_eq_false (Nat.not_lt.mpr full)
  rw [State.markRefusal, if_neg (by simpa using h), if_neg (by simpa [Config.segmentPlaces] using room), if_neg (by simp [slot]),
    if_pos (by simp [space])]

theorem markRefusal_of_accepted {s : State} (h : s.eng.state = .active) (room : s.segments.length < 16) (free : s.slots.length < 8)
    (space : s.occupancy < s.layout.capacity) : s.markRefusal = none := by
  have slot : s.slotFree = true := decide_eq_true free
  have held : s.hasSpace = true := decide_eq_true space
  rw [State.markRefusal, if_neg (by simpa using h), if_neg (by simpa [Config.segmentPlaces] using room), if_neg (by simp [slot]),
    if_neg (by simp [held])]

theorem handed_eq (d : DownLink) (l : List DownRequest) : d.handed l = d.hand l := by
  unfold DownLink.handed DownLink.hand DownLink.takesAtOnce
  simp

/-- The marker's record is the last below the threshold, or the first at or above it (R17, R18). -/
def State.risesHigh (s : State) : Bool :=
  decide (s.layout.highWater * 2 ^ s.layout.order / 8 ≤ s.ring.tail + 1 - s.ring.head)

theorem acceptMark_port (s : State) (src : Source) (tag : MarkTag) :
    (s.acceptMark src tag).port = if s.risesHigh && s.ring.highArmed then s.port.append {
        kind := .ringHigh, state := s.eng.state, seq := some (s.ring.tail + 1), detail := some (s.ring.tail + 1 - s.ring.head)
        count := none }
      else s.port := rfl

/-- The marker's RING_HIGH is raised just when the threshold is reached with the flag armed and the kind enabled (R18, R190). -/
theorem acceptMark_port_of_quiet {s : State} (src : Source) (tag : MarkTag)
    (h : s.risesHigh = false ∨ s.ring.highArmed = false ∨ s.port.mask.getLsbD 0 = false) : (s.acceptMark src tag).port = s.port := by
  rw [acceptMark_port]
  rcases h with h | h | h
  · simp [h]
  · simp [h]
  · rw [append_masked (by exact h), ite_self]

theorem acceptMark_port_of_high {s : State} (src : Source) (tag : MarkTag) (high : s.risesHigh = true) (armed : s.ring.highArmed = true)
    (enabled : s.port.mask.getLsbD 0 = true) (room : s.port.events.length < 32) :
    (s.acceptMark src tag).port = { s.port with events := s.port.events ++ [{
      kind := .ringHigh, state := s.eng.state, seq := some (s.ring.tail + 1), detail := some (s.ring.tail + 1 - s.ring.head)
      count := none }] } := by
  rw [acceptMark_port, high, armed, append_queued (by exact enabled) room]
  rfl

/-- Settles O25, by the tests of R30 in turn. -/
theorem markerCommand : Obligations.MarkerCommand := by
  intro tag s hr notResetting
  simp only [exec_mark, execMark_of_ne hr notResetting]
  refine ⟨fun h => ?_, fun h full => ?_, fun h room full => ?_, fun h room free full => ?_, fun h room free space => ?_⟩
  · rw [markCommand_refused (markRefusal_of_state h)]
  · rw [markCommand_refused (markRefusal_of_list h full)]
  · rw [markCommand_refused (markRefusal_of_slots h room full)]
  · rw [markCommand_refused (markRefusal_of_ring h room free full)]
  rw [markCommand_accepted (markRefusal_of_accepted h room free space)]
  refine ⟨_, rfl, rfl, ?mask, fun quiet => ?quiet, fun high armed enabled few => ?high, rfl, rfl, rfl, rfl,
    (handed_eq ..).symm, rfl, rfl, rfl, rfl, rfl, rfl, rfl, rfl, rfl⟩
  case mask => exact ((acceptMark_moves s.nextEvent .management tag
    (markRefusal_of_accepted h room free space)).keeps_settings).2.2.2.1
  case quiet =>
    have same := acceptMark_port_of_quiet (s := s.nextEvent) .management tag quiet
    exact ⟨(congrArg Port.events same :), (congrArg Port.overflow same :)⟩
  case high =>
    have raised := acceptMark_port_of_high (s := s.nextEvent) .management tag high armed enabled few
    have active : s.nextEvent.eng.state = .active := h
    rw [active] at raised
    exact ⟨(congrArg Port.overflow raised :), (congrArg Port.events raised :)⟩

end Sys2Proof.Machine
end


section
/-! SUPPORT. The bytes and fields of a line, bit by bit (R99, R106, R113, R170, R182). -/

namespace Sys2Proof.Machine

theorem getLsbD_fieldLine (off bytes v k : Nat) :
    (fieldLine off bytes v).getLsbD k = (decide (k < 512) && decide (8 * off ≤ k) && decide (k - 8 * off < 8 * bytes)
      && v.testBit (k - 8 * off)) := by
  simp only [fieldLine, BitVec.getLsbD_shiftLeft, BitVec.getLsbD_ofNat, Nat.testBit_mod_two_pow]
  by_cases low : 8 * off ≤ k
  · by_cases high : k < 512
    · simp [low, high, show k - 8 * off < 512 by omega, Nat.not_lt.mpr low]
    · simp [high]
  · simp [low, Nat.lt_of_not_le low]

/-- A byte of ones covers its own eight bits (R170). -/
theorem getLsbD_flagByte (n k : Nat) : (fieldLine n 1 0xFF).getLsbD k = (decide (k < 512) && decide (k / 8 = n)) := by
  rw [getLsbD_fieldLine]
  by_cases own : k / 8 = n
  · have inside : k - 8 * n < 8 := by omega
    have ones : ∀ b, b < 8 → Nat.testBit 255 b = true := by decide
    simp [own, ones _ inside, inside]; omega
  · by_cases low : 8 * n ≤ k
    · simp [own, show ¬ k - 8 * n < 8 by omega]
    · simp [own, low]

theorem getLsbD_maskLineBelow (m : Mask) (n k : Nat) :
    (maskLineBelow m n).getLsbD k = (decide (k < 512) && decide (k / 8 < n) && m.getLsbD (k / 8)) := by
  induction n with
  | zero => simp [maskLineBelow]
  | succ n ih =>
    rw [maskLineBelow, BitVec.getLsbD_or, ih]
    by_cases own : k / 8 = n
    · subst own
      cases h : m.getLsbD (k / 8)
      · simp
      · simp [getLsbD_flagByte]
    · have below : (k / 8 < n + 1) = (k / 8 < n) := by simp; omega
      split
      · simp only [getLsbD_flagByte, own, below]; simp
      · simp only [below]; simp

theorem getLsbD_maskLine (m : Mask) (k : Nat) : (maskLine m).getLsbD k = (decide (k < 512) && m.getLsbD (k / 8)) := by
  rw [maskLine, getLsbD_maskLineBelow]
  by_cases h : k < 512
  · simp [h, show k / 8 < 64 by omega]
  · simp [h]

theorem getLsbD_selected (m : Mask) (l : Line) (k : Nat) : (selected m l).getLsbD k = (l.getLsbD k && m.getLsbD (k / 8)) := by
  rw [selected, BitVec.getLsbD_and, getLsbD_maskLine]
  by_cases h : k < 512
  · simp [h]
  · simp [BitVec.getLsbD_of_ge l k (by omega)]

theorem getLsbD_lineByte (l : Line) (j b : Nat) : (lineByte l j).getLsbD b = (decide (b < 8) && l.getLsbD (8 * j + b)) := by
  simp [lineByte, BitVec.getLsbD_extractLsb']

/-- A selected byte is the line's, and every other byte is 0 (R99, R170). -/
theorem lineByte_selected (m : Mask) (l : Line) (j : Nat) :
    lineByte (selected m l) j = if m.getLsbD j then lineByte l j else 0 := by
  refine BitVec.eq_of_getLsbD_eq fun b hb => ?_
  rw [getLsbD_lineByte, getLsbD_selected, show (8 * j + b) / 8 = j by omega]
  cases h : m.getLsbD j
  · simp
  · simp [getLsbD_lineByte]

end Sys2Proof.Machine
end


section
/-! SUPPORT. The soft reset (R78, R86, R89, R155, R168, R193): what taking it does, what a response does while it lasts, and its final
event. -/

namespace Sys2Proof.Machine

/-! ## Taking it -/

theorem mem_abandonSlots {l : List Slot} {j : Slot} :
    j ∈ abandonSlots l ↔ ∃ k ∈ l, k.busy = true ∧ j = { k with abandoned := true, held := none } := by
  simp only [abandonSlots, List.mem_map, List.mem_filter]
  constructor
  · rintro ⟨k, ⟨hk, busy⟩, rfl⟩
    exact ⟨k, hk, busy, rfl⟩
  · rintro ⟨k, hk, busy, rfl⟩
    exact ⟨k, ⟨hk, busy⟩, rfl⟩

/-- The answers that a list of tags is given. -/
def answersOf (l : List UpTag) (st : LinkStatus) (d : Option Line) : List UpResponse :=
  l.map fun tag => { tag := tag, status := st, data := d }

theorem foldl_answer_ready {s : State} (h : s.up.respReady = true) (l : List UpTag) (st : LinkStatus) (d : Option Line) :
    (l.foldl (fun t tag => t.answer tag st d) s).up.sent = s.up.sent ++ answersOf l st d := by
  induction l generalizing s with
  | nil => simp [answersOf]
  | cons tag rest ih =>
    have next := answer_ready h { tag := tag, status := st, data := d }
    rw [List.foldl_cons, ih (by rw [answer_up, next]; exact h), answer_up, next]
    simp [answersOf]

theorem foldl_answer_withheld {s : State} (h : s.up.respReady = false) (l : List UpTag) (st : LinkStatus) (d : Option Line) :
    (l.foldl (fun t tag => t.answer tag st d) s).up.respWaiting = s.up.respWaiting ++ answersOf l st d := by
  induction l generalizing s with
  | nil => simp [answersOf]
  | cons tag rest ih =>
    have next := answer_withheld h { tag := tag, status := st, data := d }
    rw [List.foldl_cons, ih (by rw [answer_up, next]; exact h), answer_up, next]
    simp [answersOf]

theorem answer_pendingForward (u : UpLink) (r : UpResponse) : (u.answer r).pendingForward = u.pendingForward := by
  cases h : u.respReady
  · rw [answer_withheld h]
  · rw [answer_ready h]

theorem foldl_answer_pendingForward (s : State) (l : List UpTag) (st : LinkStatus) (d : Option Line) :
    (l.foldl (fun t tag => t.answer tag st d) s).up.pendingForward = s.up.pendingForward := by
  induction l generalizing s with
  | nil => rfl
  | cons tag rest ih => rw [List.foldl_cons, ih, answer_up, answer_pendingForward]

/-- SOFT_RESET changes the upstream link by its answers, and the fields R89 names. -/
theorem beginSoftReset_eq (s : State) : s.beginSoftReset = { s with
    up := (s.abortedTags.foldl (fun t tag => t.answer tag .aborted none) s).up
    eng := { s.eng with state := .resetting }, hold := { queue := [], waiting := none }, slots := abandonSlots s.slots
    stall := none, ring := { s.ring with fullReported := false }, watch := { s.watch with occasion := .idle }, replay := none
    scan := none, aborted := s.abortedTags.length } := by
  unfold State.beginSoftReset; dsimp only
  rw [foldl_answer]

theorem execSoftReset_of_ne {s : State} (hr : s.rstn = true) (h : s.eng.state ≠ .resetting) :
    execSoftReset s = .next (s.nextEvent.beginSoftReset.reply .accepted []).finish := running_unlessResetting_of_ne _ _ hr h

/-- While a soft reset is on nothing is held, so the end of an event is the end of the reset, if that is due (R89, R193). -/
theorem finish_of_resetting {s : State} (h : s.eng.state = .resetting) (empty : s.hold = { queue := [], waiting := none }) :
    s.finish = s.checkReset := by
  rw [State.finish, checkQuiesce_of_not_due (by simp [State.quiesceDue, h]),
    settle_of_quiet (by simp [State.firstReady, empty]) (.inl (by simp [empty]))]

theorem checkReset_of_due {s : State} (h : s.eng.state = .resetting) (idle : s.down.internalBusy = false) :
    s.checkReset = s.endSoftReset := if_pos (by simp [State.resetDue, h, idle])

theorem checkReset_of_busy {s : State} (busy : s.down.internalBusy = true) : s.checkReset = s :=
  checkReset_of_not_due (by simp [State.resetDue, busy])

theorem softReset_finish {s : State} :
    (s.nextEvent.beginSoftReset.reply .accepted []).finish = (s.nextEvent.beginSoftReset.reply .accepted []).checkReset := by
  refine finish_of_resetting ?_ ?_
  · rw [beginSoftReset_eq]; rfl
  · rw [beginSoftReset_eq]; rfl

/-- Settles O26: an internal request outstanding keeps the reset from ending. -/
theorem softResetTaken : Obligations.SoftResetTaken := by
  intro s hr notResetting busy
  have stays : (s.nextEvent.beginSoftReset.reply .accepted []).checkReset = s.nextEvent.beginSoftReset.reply .accepted [] :=
    checkReset_of_busy (by rw [beginSoftReset_eq]; exact busy)
  rw [exec_softReset, execSoftReset_of_ne hr notResetting, softReset_finish, stays, beginSoftReset_eq]
  refine ⟨_, rfl, rfl, rfl, rfl, rfl, ?_, rfl, fun j => mem_abandonSlots, fun ready => ?_, fun withheld => ?_, ?_, rfl, rfl, rfl, rfl,
    rfl, rfl, rfl, rfl, rfl, rfl⟩
  · simp [State.upReady, State.reply]
  · exact foldl_answer_ready (s := s.nextEvent) ready _ _ _
  · exact foldl_answer_withheld (s := s.nextEvent) withheld _ _ _
  · exact foldl_answer_pendingForward s.nextEvent _ _ _

/-! ## Its final event -/

theorem exec_softResetEnd {s : State} (hr : s.rstn = true) (h : s.eng.state = .resetting) (idle : s.down.internalBusy = false) :
    exec .softResetEnd s = .next s.nextEvent.endSoftReset := by
  have due : s.nextEvent.resetDue = true := by simp [State.resetDue, h, idle]
  show execSoftResetEnd s = _
  rw [execSoftResetEnd, running_of_high hr, if_pos due]

/-- The event queue before RESET_DONE: emptied, with the frame's record no longer to be removed (R193). -/
def Port.reset (p : Port) : Port :=
  { p with frame := p.frame.map fun f => { f with removesEvent := false }, events := [], overflow := false }

theorem endSoftReset_port (s : State) : s.endSoftReset.port = s.port.reset.append
    { kind := .resetDone, state := .off, seq := none, detail := some s.aborted, count := none } := rfl

/-- The event queue after the final event: RESET_DONE alone, if it is enabled (R190, R193). -/
theorem endSoftReset_events (s : State) : s.endSoftReset.port.events = (if s.port.mask.getLsbD 15 then
    [{ kind := .resetDone, state := .off, seq := none, detail := some s.aborted, count := none }] else []) := by
  rw [endSoftReset_port]
  cases h : s.port.mask.getLsbD 15
  · rw [append_masked (by exact h)]; rfl
  · rw [append_queued (by exact h) (by exact Nat.zero_lt_succ _)]; rfl

theorem append_overflow_of_empty {p : Port} (h : p.events = []) (r : EventRecord) : (p.append r).overflow = p.overflow := by
  cases enabled : p.enables r.kind
  · rw [append_masked enabled]
  · rw [append_queued enabled (by simp [h, Config.eventPlaces])]

theorem endSoftReset_overflow (s : State) : s.endSoftReset.port.overflow = false := append_overflow_of_empty rfl _

/-! ## Responses while it lasts -/

/-- What a response in RESETTING does to a slot (R78). -/
def discardInto (o : Owner) (j : Slot) : Slot :=
  match o with
  | .oldData n => if j.header.seq = n then { j with oldData := .discarded } else j
  | .recordHeader n => if j.header.seq = n then { j with headerWrite := .acknowledged } else j
  | .recordData n => if j.header.seq = n then { j with dataWrite := .acknowledged } else j
  | _ => j

/-- What a response in RESETTING leaves: the slots that are still busy, and the watch unit's flag (R78, R112). -/
def State.discards (s : State) (o : Owner) : State :=
  { s with
    slots := (s.slots.map (discardInto o)).filter fun j =>
      j.oldData = .reading ∨ j.headerWrite = .outstanding ∨ j.dataWrite = .outstanding
    watch := if o = .status then { s.watch with outstanding := false } else s.watch }

theorem slot_busy_iff (j : Slot) :
    j.busy = decide (j.oldData = .reading ∨ j.headerWrite = .outstanding ∨ j.dataWrite = .outstanding) := by
  simp [Slot.busy, Bool.or_assoc]

theorem abandonedBusy_filter {l : List Slot} (h : abandonedBusy l) :
    (l.filter fun j => j.oldData = .reading ∨ j.headerWrite = .outstanding ∨ j.dataWrite = .outstanding) = l :=
  List.filter_eq_self.mpr fun j hj => slot_busy_iff j ▸ (h j hj).2

/-- A response that finds nothing of its own changes nothing. -/
theorem discards_of_untouched {s : State} {o : Owner} (h : abandonedBusy s.slots) (hs : s.slots.map (discardInto o) = s.slots)
    (ho : o ≠ .status) : s.discards o = s := by
  unfold State.discards
  rw [hs, abandonedBusy_filter h, if_neg ho]

theorem freeAbandoned_of_resetting {s : State} (h : s.eng.state = .resetting) :
    s.freeAbandoned = { s with slots := s.slots.filter fun j => !j.abandoned || j.busy } := by
  unfold State.freeAbandoned State.keepSlots; dsimp only; split
  · simp [State.slotFreed, h]
  · rfl

/-- The abandoned slot of a record is freed with its last request (R78). -/
theorem setSlot_freeAbandoned {s : State} (h : s.eng.state = .resetting) (quiet : abandonedBusy s.slots) (n : Nat) (f : Slot → Slot)
    (hf : ∀ j, (f j).abandoned = j.abandoned) (o : Owner) (ho : ∀ j, discardInto o j = if j.header.seq = n then f j else j)
    (hstatus : o ≠ .status) : (s.setSlot n f).freeAbandoned = s.discards o := by
  have same : discardInto o = fun j => if j.header.seq = n then f j else j := funext ho
  rw [freeAbandoned_of_resetting (by exact h), State.discards, if_neg hstatus, setSlot_slots, same]
  have filtered : ∀ l : List Slot, (∀ j ∈ l, j.abandoned = true) → (l.filter fun j => !j.abandoned || j.busy) =
      l.filter fun j => j.oldData = .reading ∨ j.headerWrite = .outstanding ∨ j.dataWrite = .outstanding := by
    intro l hl
    refine List.filter_congr fun j hj => ?_
    rw [hl j hj, ← slot_busy_iff]; rfl
  rw [filtered]
  · rfl
  · intro j hj
    obtain ⟨k, hk, rfl⟩ := List.mem_map.mp hj
    split
    · rw [hf]; exact (quiet k hk).1
    · exact (quiet k hk).1

theorem slotOf_none {s : State} {n : Nat} (h : s.slotOf n = none) : ∀ j ∈ s.slots, j.header.seq ≠ n := by
  simpa [State.slotOf] using h

/-- A response for a seq that no slot has changes nothing (R78). -/
theorem discards_of_slotOf_none {s : State} (quiet : abandonedBusy s.slots) {n : Nat} (found : s.slotOf n = none) (f : Slot → Slot)
    (o : Owner) (ho : ∀ j, discardInto o j = if j.header.seq = n then f j else j) (hstatus : o ≠ .status) : s.discards o = s := by
  refine discards_of_untouched quiet ((List.map_congr_left fun j hj => ?_).trans (List.map_id _)) hstatus
  rw [ho, if_neg (slotOf_none found j hj)]; rfl

theorem oldDataReturned_of_resetting {s : State} (h : s.eng.state = .resetting) (quiet : abandonedBusy s.slots) (n : Nat)
    (r : MemResponse) : s.oldDataReturned n r = s.discards (.oldData n) := by
  unfold State.oldDataReturned
  cases found : s.slotOf n with
  | none =>
    exact (discards_of_slotOf_none quiet found (fun j => { j with oldData := .discarded }) (.oldData n) (fun _ => rfl) (by simp)).symm
  | some j =>
    refine (if_pos (quiet j (slotOf_mem found).1).1).trans ?_
    exact setSlot_freeAbandoned h quiet n (fun j => { j with oldData := .discarded }) (fun _ => rfl) (.oldData n) (fun _ => rfl) (by simp)

theorem recordReturned_of_resetting {s : State} (h : s.eng.state = .resetting) (quiet : abandonedBusy s.slots) (n : Nat)
    (note : Slot → Slot) (hf : ∀ j, (note j).abandoned = j.abandoned) (o : Owner)
    (ho : ∀ j, discardInto o j = if j.header.seq = n then note j else j) (hstatus : o ≠ .status) (r : MemResponse) :
    s.recordReturned n note r = s.discards o := by
  unfold State.recordReturned
  cases found : s.slotOf n with
  | none => exact (discards_of_slotOf_none quiet found note o ho hstatus).symm
  | some j => exact (if_pos (quiet j (slotOf_mem found).1).1).trans (setSlot_freeAbandoned h quiet n note hf o ho hstatus)

/-- A response that is no forwarded request's and no view read's is discarded by the block that handed the request. -/
theorem deliver_of_resetting {s : State} (h : s.eng.state = .resetting) (quiet : s.ResettingQuiet) {q : DownRequest} (r : MemResponse)
    (notForward : q.owner ≠ .forward) (notView : q.owner ≠ .view) : s.deliver q r = s.discards q.owner := by
  obtain ⟨_, replay, scan, slots⟩ := quiet h
  have untouched : ∀ o : Owner, (∀ j, discardInto o j = j) → o ≠ .status → s = s.discards o := fun o ho hs =>
    (discards_of_untouched slots ((List.map_congr_left fun j _ => ho j).trans (List.map_id _)) hs).symm
  unfold State.deliver
  cases owner : q.owner with
  | forward => exact absurd owner notForward
  | view => exact absurd owner notView
  | oldData n => exact oldDataReturned_of_resetting h slots n r
  | recordHeader n =>
    exact recordReturned_of_resetting h slots n (fun j => { j with headerWrite := .acknowledged }) (fun _ => rfl) (.recordHeader n)
      (fun _ => rfl) (by simp) r
  | recordData n =>
    exact recordReturned_of_resetting h slots n (fun j => { j with dataWrite := .acknowledged }) (fun _ => rfl) (.recordData n)
      (fun _ => rfl) (by simp) r
  | status =>
    have kept : s.slots.map (discardInto .status) = s.slots := List.map_id _
    simp only [State.statusReturned, if_pos h, State.discards, kept, abandonedBusy_filter slots, if_true]
  | startRead =>
    have out : s.eng.state ≠ .opening := by simp [h]
    exact (if_pos out).trans (untouched _ (fun _ => rfl) (by simp))
  | recoverRead =>
    have out : s.eng.state ≠ .scanning := by simp [h]
    exact (if_pos out).trans (untouched _ (fun _ => rfl) (by simp))
  | replayHeader n | replayData n =>
    simp only [State.replayReturned, replay]
    exact untouched _ (fun _ => rfl) (by simp)
  | restore n =>
    simp only [State.restoreReturned, replay]
    exact untouched _ (fun _ => rfl) (by simp)
  | scanHeader n | scanData n =>
    simp only [State.scanReturned, scan]
    exact untouched _ (fun _ => rfl) (by simp)

/-- A view read's response in RESETTING is still passed upstream, and its place is freed (R103). -/
theorem viewReturned_of_empty {s : State} (empty : s.hold = { queue := [], waiting := none }) {r : MemResponse} {p : ViewPlace}
    (found : (s.views.find? fun x => x.internalTag = r.tag) = some p) :
    s.viewReturned r = State.answer { s with views := s.views.filter fun x => x.internalTag ≠ r.tag } p.tag
      (if r.status = .ok then .ok else .memError) (if r.status = .ok then some (selected p.mask r.data) else none) := by
  have awake : ∀ t : State, t.hold = s.hold → (t.wake fun w => decide (w = .place)) = t := by
    intro t ht
    rw [State.wake, ht, empty]
    simp [wakeEntries, ← empty, ← ht]
  simp only [State.viewReturned, found, responseOk, decide_eq_true_eq]
  split
  · rw [awake _ (by simp)]; rfl
  · rw [awake _ (by simp)]; rfl

/-- The end of the reset, due or not, after a response (R193). -/
theorem finish_or_end {s : State} (h : s.eng.state = .resetting) (empty : s.hold = { queue := [], waiting := none })
    (hr : s.rstn = true) {n : Nat} (no : s.eventNo = n + 1) :
    (s.down.internalBusy = true → (.next s.finish : Host.Outcome State Fault Refusal) = .next s) ∧
      (s.down.internalBusy = false → .next s.finish = exec .softResetEnd { s with eventNo := n }) := by
  rw [finish_of_resetting h empty]
  refine ⟨fun busy => by rw [checkReset_of_busy busy], fun idle => ?_⟩
  have again : State.nextEvent { s with eventNo := n } = s := by simp [State.nextEvent, ← no]
  rw [checkReset_of_due h idle, exec_softResetEnd (by exact hr) (by exact h) (by exact idle), again]

/-- Settles O27: the final event, at the row's own command and in the event of taking, and the responses before it. -/
theorem softResetEnds : Obligations.SoftResetEnds := by
  refine ⟨fun s hr idle => ⟨fun h => ?_, fun h => ?_⟩, fun c r s q hc hr h quiet issued notForward => ?_⟩
  · refine ⟨_, exec_softResetEnd hr h idle, ⟨rfl, rfl, rfl, rfl, rfl, rfl, rfl, rfl, rfl, rfl, rfl, rfl, rfl, rfl, rfl, ?_, ?_, rfl, rfl,
      rfl, rfl, rfl⟩, rfl, rfl⟩
    · exact endSoftReset_events s.nextEvent
    · exact endSoftReset_overflow s.nextEvent
  · have ends : (s.nextEvent.beginSoftReset.reply .accepted []).checkReset =
        (s.nextEvent.beginSoftReset.reply .accepted []).endSoftReset :=
      checkReset_of_due (by rw [beginSoftReset_eq]; rfl) (by rw [beginSoftReset_eq]; exact idle)
    rw [exec_softReset, execSoftReset_of_ne hr h, softReset_finish, ends, beginSoftReset_eq]
    refine ⟨_, rfl, ⟨rfl, rfl, rfl, rfl, rfl, rfl, rfl, rfl, rfl, rfl, rfl, rfl, rfl, rfl, rfl, ?_, ?_, rfl, rfl, rfl, rfl, rfl⟩, rfl,
      rfl⟩
    · rw [endSoftReset_events]
      have count : s.nextEvent.abortedTags.length =
          (s.hold.queue.filter fun e => e.wait ≠ .issue).length + s.hold.waiting.toList.length := by
        cases hw : s.hold.waiting <;> simp [State.abortedTags, hw]
      rw [← count]; rfl
    · exact endSoftReset_overflow _
  · rw [exec_response hc, memoryResponse_of_issued hr issued]
    have during : (s.taking r.tag).eng.state = .resetting := h
    obtain ⟨empty, _, _, slots⟩ := quiet h
    by_cases view : q.owner = .view
    · have kept : (s.taking r.tag).discards q.owner = s.taking r.tag :=
        discards_of_untouched slots ((List.map_congr_left fun j _ => by rw [view]; rfl).trans (List.map_id _)) (by simp [view])
      have delivered : (s.taking r.tag).deliver q r = (s.taking r.tag).viewReturned r := by simp only [State.deliver, view]
      rw [delivered]
      cases found : s.views.find? fun x => x.internalTag = r.tag with
      | none =>
        have nothing : (s.taking r.tag).viewReturned r = s.taking r.tag := by
          have gone : ((s.taking r.tag).views.find? fun x => x.internalTag = r.tag) = none := found
          simp only [State.viewReturned, gone]
        rw [nothing]
        exact ⟨s.taking r.tag, fun other => absurd view other, fun p _ hp => absurd hp (by simp),
          finish_or_end during empty hr rfl⟩
      | some p =>
        rw [viewReturned_of_empty (s := s.taking r.tag) empty found]
        refine ⟨_, fun other => absurd view other, fun p' _ hp => ?_, finish_or_end (by exact during) (by exact empty) (by exact hr) rfl⟩
        obtain rfl : p = p' := Option.some.inj hp
        have state : ∀ st d, State.answer { s.taking r.tag with views := s.views.filter fun x => x.internalTag ≠ r.tag } p.tag st d =
            State.answer { (s.taking r.tag).discards q.owner with views := s.views.filter fun x => x.internalTag ≠ r.tag } p.tag st d :=
          fun st d => by rw [kept]
        refine ⟨fun ok => ⟨selected p.mask r.data, ?_, fun j _ => lineByte_selected ..⟩, fun bad => ?_⟩
        · rw [if_pos ok, if_pos ok]; exact state _ _
        · rw [if_neg bad, if_neg bad]; exact state _ _
    · rw [deliver_of_resetting during quiet r notForward view]
      exact ⟨(s.taking r.tag).discards q.owner, fun _ => rfl, fun p hv => absurd hv view,
        finish_or_end (by exact during) (by exact empty) (by exact hr) rfl⟩

end Sys2Proof.Machine
end


section
/-! SUPPORT. The engine's own steps (R127, R132, R136, R152): the end of quiescing, the OPEN record, the end of a rollback and of
closing. -/

namespace Sys2Proof.Machine

/-! ## Status writes, and entry into a state -/

theorem requestStatus_of_outstanding {s : State} (h : s.watch.outstanding = true) :
    s.requestStatus false = { s with watch := { s.watch with updatePending := true } } := if_pos h

theorem requestStatus_of_free {s : State} (h : s.watch.outstanding = false) :
    s.requestStatus false = { s.handOwn (.write s.statusLine) s.layout.controlLine statusMask .status with
      watch := { s.watch with outstanding := true } } := by
  simp [State.requestStatus, h, State.issueStatus]

/-- The status tells of the engine, of F, of the replay unit's target and of nothing else (R106, R107). -/
theorem statusLine_congr {s t : State} (eng : t.eng = s.eng) (frontier : t.ring.frontier = s.ring.frontier)
    (replay : t.replay = s.replay) (event : t.eventNo = s.eventNo) : t.statusLine = s.statusLine := by
  simp only [State.statusLine, State.statusValue, State.statusCodes, eng, frontier, replay, event]

theorem wakeEntries_clearedByEngine (q : List Entry) :
    wakeEntries Wait.clearedByEngine q = decidableNow [.engine, .slot, .space] q := by
  refine List.map_congr_left fun e _ => ?_
  cases e.wait <;> rfl

@[simp] theorem enterActive_eng (s : State) : s.enterActive.eng = { s.eng with state := .active } := rfl

@[simp] theorem enterActive_hold (s : State) :
    s.enterActive.hold = { s.hold with queue := decidableNow [.engine, .slot, .space] s.hold.queue } := by
  rw [← wakeEntries_clearedByEngine]; rfl

@[simp] theorem enterOff_eng (s : State) : s.enterOff.eng = { s.eng with state := .off, epoch := 0 } := rfl

@[simp] theorem enterOff_hold (s : State) :
    s.enterOff.hold = { s.hold with queue := decidableNow [.engine, .slot, .space] s.hold.queue } := by
  rw [← wakeEntries_clearedByEngine]; rfl

/-- The entries that entry into BROKEN clears (R85, R88). -/
theorem wakeEntries_clearedByBroken (q : List Entry) : wakeEntries Wait.clearedByBroken q = q.map fun e =>
    match e.wait with
    | .engine | .slot | .space | .record _ => { e with wait := .ready }
    | .line | .place | .issue | .ready => e := by
  refine List.map_congr_left fun e _ => ?_
  cases e.wait <;> rfl

@[simp] theorem enterBroken_hold (s : State) (c : Cause) :
    (s.enterBroken c).hold = { s.hold with queue := wakeEntries Wait.clearedByBroken s.hold.queue } := by
  simp [State.enterBroken, State.breakJournal]

@[simp] theorem enterBroken_stall (s : State) (c : Cause) : (s.enterBroken c).stall = none := by
  simp [State.enterBroken, State.breakJournal]

@[simp] theorem enterBroken_port (s : State) (c : Cause) : (s.enterBroken c).port = s.port.append
    { kind := .broken, state := .broken, seq := some s.ring.frontier, detail := some c.code
      count := some (s.ring.tail - s.ring.frontier) } := by
  simp [State.enterBroken]; rfl

/-- The state in which entry into BROKEN requests its status write. -/
def State.brokenBefore (s : State) (c : Cause) : State := ((s.breakJournal c).setEngine .broken).raiseBroken c

/-- Entry into BROKEN requests a status write of the state it enters (R85, R108). -/
theorem enterBroken_link (s : State) (c : Cause) : (s.enterBroken c).watch = ((s.brokenBefore c).requestStatus false).watch ∧
    (s.enterBroken c).down = ((s.brokenBefore c).requestStatus false).down := ⟨rfl, rfl⟩

/-- With nothing held and the engine neither quiescing nor resetting an event has no more to do. -/
theorem finish_of_empty {s : State} (empty : s.hold = { queue := [], waiting := none }) (quiescing : s.eng.state ≠ .quiescing)
    (resetting : s.eng.state ≠ .resetting) : s.finish = s := by
  obtain ⟨hq, hr⟩ := nothingDue_of_state quiescing resetting
  exact finish_of_settled ⟨by simp [State.firstReady, empty], .inl (by simp [empty]), hq, hr⟩

/-! ## The end of quiescing -/

theorem exec_quiesceEnd {s : State} (hr : s.rstn = true) (due : s.quiesceDue = true) :
    exec .quiesceEnd s = .next s.nextEvent.endQuiesce := by
  have due' : s.nextEvent.quiesceDue = true := due
  show execQuiesceEnd s = _
  rw [execQuiesceEnd, running_of_high hr, if_pos due']

/-- Settles O28: the three pending actions. -/
theorem quiesceEndProceeds : Obligations.QuiesceEndProceeds := by
  intro s hr quiescing free
  have ends : ∀ a, s.eng.action = some a → exec .quiesceEnd s = .next s.nextEvent.endQuiesce := fun a ha =>
    exec_quiesceEnd hr (quiesceDue_iff.mpr ⟨quiescing, by simp [ha], free⟩)
  refine ⟨fun h => ?_, fun h => ?_, fun m h => ?_⟩
  all_goals
    have action : s.nextEvent.eng.action = _ := h
    rw [ends _ h, State.endQuiesce, action]
    rfl

/-! ## The OPEN record -/

theorem exec_openRecordAssign {s : State} (hr : s.rstn = true) (h : s.eng.state = .opening) (returned : s.watch.occasion = .returned) :
    exec .openRecordAssign s = .next s.nextEvent.openRecord := by
  have due : s.nextEvent.openDue = true := by simp [State.openDue, h, returned]
  show execOpenRecordAssign s = _
  rw [execOpenRecordAssign, running_of_high hr, if_pos due]

theorem headerAddr_zero (l : Layout) : l.headerAddr 0 = l.ringBase := by simp [Layout.headerAddr]

/-- An occupancy below the threshold arms the flag and raises nothing (R17). -/
theorem occupancyChanged_of_low {s : State} (h : s.isHigh = false) :
    s.occupancyChanged = { s with ring := { s.ring with highArmed := true } } := by
  simp [State.occupancyChanged, h]

/-- The OPEN record of a fresh epoch is record 0 (R22, R25, R127). -/
theorem openRecord_of_fresh {s : State} (empty : s.ring = { head := 0, frontier := 0, tail := 0, highArmed := true, fullReported := false })
    (above : 1 < s.layout.threshold) : s.openRecord = State.handOwn { s with
      ring := { s.ring with tail := 1 }, slots := [headerSlot s.openHeader]
      segments := [{ seq := 0, tag := 0, source := s.eng.opener.source }], watch := { s.watch with occasion := .idle } }
      (.write (headerLine s.openHeader 0)) s.layout.ringBase (BitVec.allOnes 64) (.recordHeader 0) := by
  have seq : s.openHeader.seq = 0 := by simp [State.openHeader, empty]
  have low : State.isHigh { s with
      slots := [headerSlot s.openHeader]
      ring := { s.ring with tail := s.ring.tail + 1 }
      segments := [{ seq := s.ring.tail, tag := 0, source := s.eng.opener.source }]
      watch := { s.watch with occasion := .idle } } = false := by
    simp [State.isHigh, State.occupancy, empty, above]
  rw [State.openRecord, State.assignOpen, occupancyChanged_of_low low, State.handHeader, seq]
  simp only [headerAddr_zero, empty]
  rfl

/-- Settles O29: the first record lies below the high-water threshold. -/
theorem openRecordAssigned : Obligations.OpenRecordAssigned := by
  intro s hr opening returned empty above
  have header : s.nextEvent.openHeader =
      { kind := .opening, dup := false, source := s.eng.opener.source, region := 0, epoch := s.eng.epoch, seq := 0, line := 0, tag := 0
        segmentStart := 0 } := by simp [State.openHeader, empty]
  rw [exec_openRecordAssign hr opening returned, openRecord_of_fresh (by exact empty) (by exact above), header]
  cases opener : s.eng.opener
  all_goals simp only [nextEvent_frame, opener]; rfl

/-! ## The end of a rollback -/

theorem exec_rollbackEnd {s : State} {p : Replay} (hr : s.rstn = true) (rolling : s.eng.state = .rolling) (unit : s.replay = some p)
    (begun : p.begun = true) (cursor : p.cursor = p.target) (places : p.places = []) :
    exec .rollbackEnd s = .next s.nextEvent.endRollback.finish := by
  have due : s.nextEvent.rollbackDue = true := by simp [State.rollbackDue, rolling, unit, begun, cursor, places]
  show execRollbackEnd s = _
  rw [execRollbackEnd, running_of_high hr, if_pos due]

theorem endRollback_of_good {s : State} {p : Replay} (unit : s.replay = some p) (good : p.faults = 0) :
    s.endRollback = (((s.cutBack p.target).enterActive).requestStatus false).raise .rollbackDone (some p.target) (some p.replayed)
      (some 0) := by
  rw [State.endRollback, unit]
  exact if_pos good

theorem endRollback_of_faulty {s : State} {p : Replay} (unit : s.replay = some p) (faulty : 0 < p.faults) :
    s.endRollback = ((s.cutBack p.target).enterBroken .rollbackFault).raise .rollbackDone (some p.target) (some p.replayed)
      (some (1 + 256 * p.faults)) := by
  rw [State.endRollback, unit]
  exact if_neg (by omega)

theorem not_isHigh (s : State) : (!s.isHigh) = decide (s.occupancy < s.layout.threshold) := by
  rw [State.isHigh, ← decide_not]
  exact decide_eq_decide.mpr Nat.not_le

/-- The ring after the cut (R27, R83, R152). -/
theorem cutBack_ring (s : State) (m : Nat) : (s.cutBack m).ring = { s.ring with
    frontier := m + 1, tail := m + 1, fullReported := false
    highArmed := s.ring.highArmed || decide (m + 1 - s.ring.head < s.layout.highWater * 2 ^ s.layout.order / 8) } := by
  simp only [State.cutBack, State.armIfBelow, not_isHigh]
  rfl

/-- The part of the end of a rollback that its two outcomes share (R152). -/
structure CutBack (s : State) (p : Replay) (t : State) : Prop where
  ring : t.ring = (s.cutBack p.target).ring
  segments : t.segments = s.segments.filter (fun e => e.seq ≤ p.target)
  touch : t.touch = { entries := [], saturated := false }
  replay : t.replay = none
  waiting : t.hold.waiting = s.hold.waiting
  up : t.up = s.up
  views : t.views = s.views
  timer : t.timer = s.timer
  scan : t.scan = s.scan
  statusTaken : s.watch.outstanding = false → t.watch = { s.watch with outstanding := true } ∧
    t.down = (s.handOwn (.write t.statusLine) s.layout.controlLine statusMask .status).down
  statusWaits : s.watch.outstanding = true → t.watch = { s.watch with updatePending := true } ∧ t.down = s.down

/-- What the end of a rollback does after the cut: the engine enters a state, requests a status write, and raises its event. -/
theorem cutBack_watch {s v t : State} (watch : v.watch = s.watch) (down : v.down = s.down) (event : v.eventNo = s.eventNo)
    (layout : v.layout = s.layout) (requested : t.watch = (v.requestStatus false).watch ∧ t.down = (v.requestStatus false).down)
    (line : t.statusLine = v.statusLine) :
    (s.watch.outstanding = false → t.watch = { s.watch with outstanding := true } ∧
      t.down = (s.handOwn (.write t.statusLine) s.layout.controlLine statusMask .status).down) ∧
    (s.watch.outstanding = true → t.watch = { s.watch with updatePending := true } ∧ t.down = s.down) := by
  obtain ⟨tw, td⟩ := requested
  refine ⟨fun free => ?_, fun taken => ?_⟩
  · rw [requestStatus_of_free (by rw [watch]; exact free)] at tw td
    exact ⟨by rw [tw, watch], by rw [td, line]; simp [handOwn_down, down, event, layout]⟩
  · rw [requestStatus_of_outstanding (by rw [watch]; exact taken)] at tw td
    exact ⟨by rw [tw, watch], by rw [td, down]⟩

theorem cutBack_of_good {s : State} {p : Replay} (unit : s.replay = some p) (good : p.faults = 0) : CutBack s p s.endRollback := by
  rw [endRollback_of_good unit good]
  obtain ⟨free, taken⟩ := cutBack_watch (s := s) (v := (s.cutBack p.target).enterActive)
    (t := (((s.cutBack p.target).enterActive).requestStatus false).raise .rollbackDone (some p.target) (some p.replayed) (some 0))
    rfl rfl rfl rfl ⟨by simp, by simp⟩ (statusLine_congr (by simp) (by simp) (by simp) (by simp))
  refine ⟨?_, ?_, ?_, ?_, ?_, ?_, ?_, ?_, ?_, free, taken⟩
  all_goals simp [State.cutBack, Touch.empty]

theorem cutBack_of_faulty {s : State} {p : Replay} (unit : s.replay = some p) (faulty : 0 < p.faults) : CutBack s p s.endRollback := by
  rw [endRollback_of_faulty unit faulty]
  obtain ⟨free, taken⟩ := cutBack_watch (s := s) (v := (s.cutBack p.target).brokenBefore .rollbackFault)
    (t := ((s.cutBack p.target).enterBroken .rollbackFault).raise .rollbackDone (some p.target) (some p.replayed)
      (some (1 + 256 * p.faults)))
    rfl rfl rfl rfl ⟨by simp [enterBroken_link], by simp [enterBroken_link]⟩
    (statusLine_congr (by simp; rfl) (by simp; rfl) (by simp; rfl) (by simp; rfl))
  refine ⟨?_, ?_, ?_, ?_, ?_, ?_, ?_, ?_, ?_, free, taken⟩
  all_goals simp [State.cutBack, Touch.empty]

theorem endRollback_eng {s : State} {p : Replay} (unit : s.replay = some p) (faulty : p.faults = 0 ∨ s.eng.cause = none) :
    s.endRollback.eng = { s.eng with
      state := if p.faults = 0 then .active else .broken, pendingTarget := none
      cause := if p.faults = 0 then s.eng.cause else some .rollbackFault } := by
  by_cases good : p.faults = 0
  · rw [endRollback_of_good unit good]; simp [State.cutBack, good]
  · rw [endRollback_of_faulty unit (Nat.pos_of_ne_zero good)]; simp [State.cutBack, good, faulty.resolve_left good]

/-- Events that are enabled and find room are appended in order (R190). -/
theorem foldl_append {p : Port} (l : List EventRecord) (enabled : ∀ r ∈ l, p.enables r.kind = true)
    (room : p.events.length + l.length ≤ Config.eventPlaces) : l.foldl Port.append p = { p with events := p.events ++ l } := by
  induction l generalizing p with
  | nil => simp
  | cons r rs ih =>
    have first := append_queued (enabled r List.mem_cons_self) (by simp at room; omega)
    rw [List.foldl_cons, ih (fun q hq => by rw [first]; exact enabled q (List.mem_cons_of_mem _ hq))
      (by rw [first]; simp at room ⊢; omega), first]
    simp

/-- ROLLBACK_DONE of a rollback without a fault (R152). -/
theorem endRollback_events_good {s : State} {p : Replay} (unit : s.replay = some p) (good : p.faults = 0)
    (enabled : s.port.mask.getLsbD 11 = true) (room : s.port.events.length < 32) : s.endRollback.port.events = s.port.events ++
      [{ kind := .rollbackDone, state := .active, seq := some p.target, detail := some p.replayed, count := some 0 }] := by
  have port : ((s.cutBack p.target).enterActive.requestStatus false).port = s.port := by simp [State.cutBack]
  have state : ((s.cutBack p.target).enterActive.requestStatus false).eng.state = .active := by simp
  rw [endRollback_of_good unit good, raise_port, port, state, append_queued (by exact enabled) room]

/-- The events of a rollback with faults, BROKEN first (R153). -/
theorem endRollback_events_faulty {s : State} {p : Replay} (unit : s.replay = some p) (faulty : 0 < p.faults)
    (broken : s.port.mask.getLsbD 3 = true) (done : s.port.mask.getLsbD 11 = true) (room : s.port.events.length < 31) :
    s.endRollback.port.events = s.port.events ++
      [{ kind := .broken, state := .broken, seq := some (p.target + 1), detail := some 6, count := some 0 },
       { kind := .rollbackDone, state := .broken, seq := some p.target, detail := some p.replayed
         count := some (1 + 256 * p.faults) }] := by
  have port : (s.cutBack p.target).port = s.port := rfl
  have ring := cutBack_ring s p.target
  have both := foldl_append (p := s.port)
    [{ kind := .broken, state := .broken, seq := some (p.target + 1), detail := some 6, count := some 0 },
     { kind := .rollbackDone, state := .broken, seq := some p.target, detail := some p.replayed
       count := some (1 + 256 * p.faults) }]
    (by simp [Port.enables, EventKind.code, -BitVec.getLsbD_eq_getElem, broken, done]) (by simp [Config.eventPlaces]; omega)
  rw [endRollback_of_faulty unit faulty, raise_port, enterBroken_port, enterBroken_eng, port, ring, Nat.sub_self]
  exact (congrArg Port.events both :)

/-- Settles O31: the cut is the same for both outcomes; without a fault the engine is ACTIVE, and with one it breaks. -/
theorem rollbackEnds : Obligations.RollbackEnds := by
  intro s p hr rolling unit begun cursor places
  have unit' : s.nextEvent.replay = some p := unit
  have cut : CutBack s.nextEvent p s.nextEvent.endRollback := by
    rcases Nat.eq_zero_or_pos p.faults with good | faulty
    · exact cutBack_of_good unit' good
    · exact cutBack_of_faulty unit' faulty
  have ring := cut.ring.trans (cutBack_ring s.nextEvent p.target)
  have state : s.nextEvent.endRollback.eng.state ∈ [EngineState.active, .broken] := by
    rcases Nat.eq_zero_or_pos p.faults with good | faulty
    · rw [endRollback_of_good unit' good]; simp
    · rw [endRollback_of_faulty unit' faulty]; simp
  have hold : s.hold = { queue := [], waiting := none } → s.nextEvent.endRollback.hold = { queue := [], waiting := none } := by
    intro empty
    rcases Nat.eq_zero_or_pos p.faults with good | faulty
    · rw [endRollback_of_good unit' good]; simp [State.cutBack, empty, decidableNow]
    · rw [endRollback_of_faulty unit' faulty]; simp [State.cutBack, empty, wakeEntries]
  refine ⟨s.nextEvent.endRollback, exec_rollbackEnd hr rolling unit begun cursor places, fun empty => ?_,
    by rw [ring]; rfl, by rw [ring], by rw [ring], by rw [ring], by rw [ring]; rfl, cut.segments, cut.touch, cut.replay, cut.waiting,
    cut.up, cut.views, cut.timer, cut.scan, cut.statusTaken, cut.statusWaits, fun good => ?_, fun faulty sound => ?_⟩
  · exact finish_of_empty (hold empty) (by rintro h; simp [h] at state) (by rintro h; simp [h] at state)
  · refine ⟨?_, ?_, ?_, ?_, endRollback_events_good unit' good⟩
    · rw [endRollback_eng unit' (.inl good)]; simp [good]
    all_goals rw [endRollback_of_good unit' good]; simp [State.cutBack]
  · have bad : p.faults ≠ 0 := by omega
    refine ⟨?_, ?_, fun j => ?_, ?_, endRollback_events_faulty unit' faulty⟩
    · rw [endRollback_eng unit' (.inr sound)]; simp [bad]
    · rw [endRollback_of_faulty unit' faulty]; simp
    · rw [endRollback_of_faulty unit' faulty]
      simpa [State.cutBack] using mem_abandonSlots
    · refine Eq.trans ?_ (wakeEntries_clearedByBroken _)
      rw [endRollback_of_faulty unit' faulty]; simp [State.cutBack]

/-! ## The end of closing -/

theorem exec_closingEnd {s : State} (hr : s.rstn = true) (closing : s.eng.state = .closing) (returned : s.watch.occasion = .returned) :
    exec .closingEnd s = .next s.nextEvent.closeEpoch.finish := by
  have due : s.nextEvent.closingDue = true := by simp [State.closingDue, closing, returned]
  show execClosingEnd s = _
  rw [execClosingEnd, running_of_high hr, if_pos due]

/-- An empty ring is below any threshold there can be (R17). -/
theorem threshold_pos {l : Layout} (high : l.highWater ≠ 0) (eight : 8 ≤ l.capacity) : 0 < l.threshold := by
  have big : 8 ≤ l.highWater * l.capacity := Nat.le_trans eight (Nat.le_mul_of_pos_left _ (Nat.pos_of_ne_zero high))
  exact Nat.div_pos big (by decide)

/-- The epoch closes: the journal is empty, and CLOSED is raised with the old F and epoch id (R136). -/
theorem closeEpoch_eq {s : State} (high : s.layout.highWater ≠ 0) (eight : 8 ≤ s.layout.capacity) : s.closeEpoch =
    (State.raise { s with
      eng := { s.eng with state := .off, epoch := 0, cause := none, pendingTarget := none }
      ring := { head := 0, frontier := 0, tail := 0, highArmed := true, fullReported := false }
      touch := Touch.empty, segments := [], watch := { s.watch with occasion := .idle } }
      .closed (some s.ring.frontier) (some s.eng.epoch.toNat) none).enterOff := by
  have low : State.isHigh { s with
      eng := { s.eng with state := .off, epoch := 0, cause := none, pendingTarget := none }
      ring := { s.ring with head := 0, frontier := 0, tail := 0, fullReported := false }
      touch := Touch.empty
      segments := []
      watch := { s.watch with occasion := .idle } } = false := by
    simpa [State.isHigh, State.occupancy] using Nat.ne_of_gt (threshold_pos high eight)
  rw [State.closeEpoch, occupancyChanged_of_low low]

/-- Settles O32, through the state the closing leaves. -/
theorem closingEnds : Obligations.ClosingEnds := by
  intro s hr closing returned high eight
  have closed := closeEpoch_eq (s := s.nextEvent) high eight
  refine ⟨_, exec_closingEnd hr closing returned, fun empty => ?_, ?_⟩
  · refine finish_of_empty ?_ (by rw [closed]; simp) (by rw [closed]; simp)
    rw [closed]; simp [empty, decidableNow]
  · rw [closed]
    refine ⟨rfl, rfl, rfl, rfl, rfl, by simp, rfl, rfl, rfl, rfl, rfl, rfl, rfl, fun enabled room => ?_⟩
    have raised := append_queued (p := s.port) (r := { kind := .closed, state := .off, seq := some s.ring.frontier
                                                       detail := some s.eng.epoch.toNat, count := none }) enabled room
    exact (congrArg Port.events raised :)

end Sys2Proof.Machine
end


section
/-! SUPPORT. The reads of the replay unit and of the scan unit (R147, R160; log 44). -/

namespace Sys2Proof.Machine

/-- The two reads of one ring slot, as both units hand them. -/
def State.readSlot (s : State) (header data : Nat → Owner) (q : Nat) : State :=
  (s.handOwn .read (s.layout.headerAddr q) (BitVec.allOnes 64) (header q)).handOwn .read (s.layout.dataAddr q) (BitVec.allOnes 64) (data q)

theorem slotReads_nil (s : State) (header data : Nat → Owner) : s.slotReads header data [] = s := rfl

theorem slotReads_cons (s : State) (header data : Nat → Owner) (q : Nat) (l : List Nat) :
    s.slotReads header data (q :: l) = (s.readSlot header data q).slotReads header data l := rfl

/-- Reading slots changes the downstream link alone. -/
theorem slotReads_eq (s : State) (header data : Nat → Owner) (l : List Nat) :
    s.slotReads header data l = { s with down := (s.slotReads header data l).down } := by
  induction l generalizing s with
  | nil => rfl
  | cons q qs ih => rw [slotReads_cons, ih]; rfl

/-- Of the state, reading slots needs the downstream link, the ring's layout and the event's number. -/
theorem slotReads_down_congr {s t : State} (down : t.down = s.down) (layout : t.layout = s.layout) (event : t.eventNo = s.eventNo)
    (header data : Nat → Owner) (l : List Nat) : (t.slotReads header data l).down = (s.slotReads header data l).down := by
  induction l generalizing s t with
  | nil => exact down
  | cons q qs ih =>
    rw [slotReads_cons, slotReads_cons]
    refine ih ?_ layout event
    simp only [State.readSlot, handOwn_down, handOwn_frame, down, layout, event]

/-- A place taken for a slot leaves the reads of the slots behind it as they are. -/
theorem slotReads_withReplay (s : State) (x y : Option Replay) (header data : Nat → Owner) (l : List Nat) :
    { State.slotReads { s with replay := x } header data l with replay := y } = { s.slotReads header data l with replay := y } := by
  rw [slotReads_eq, slotReads_eq s, slotReads_down_congr (s := s) (t := { s with replay := x }) rfl rfl rfl]

/-! ## Replay -/

/-- The seqs that the replay unit reads next, at most n of them (R147). -/
def Replay.nextSeqs (p : Replay) (n : Nat) : List Nat := (List.range (min n (p.readCursor - p.target))).map fun i => p.readCursor - i

theorem nextSeqs_of_done {p : Replay} (h : p.readCursor ≤ p.target) (n : Nat) : p.nextSeqs n = [] := by
  simp [Replay.nextSeqs, Nat.sub_eq_zero_of_le h]

theorem nextSeqs_succ {p q : Replay} (h : p.target < p.readCursor) (cursor : q.readCursor = p.readCursor - 1)
    (target : q.target = p.target) (n : Nat) : p.nextSeqs (n + 1) = p.readCursor :: q.nextSeqs n := by
  have count : min (n + 1) (p.readCursor - p.target) = min n (q.readCursor - q.target) + 1 := by omega
  simp only [Replay.nextSeqs, count, List.range_succ_eq_map, List.map_cons, List.map_map, Nat.sub_zero, List.cons.injEq, true_and]
  refine List.map_congr_left fun i _ => ?_
  simp only [Function.comp_apply, cursor]; omega

theorem readReplay_of_room {s : State} {p : Replay} (unit : s.replay = some p) (begun : p.begun = true)
    (room : p.places.length < Config.replayPlaces) (h : p.target < p.readCursor) (n : Nat) :
    State.readReplay (n + 1) s = State.readReplay n { s.readSlot .replayHeader .replayData p.readCursor with
      replay := some { p with places := p.places ++ [freshReplayPlace p.readCursor], readCursor := p.readCursor - 1 } } := by
  rw [State.readReplay, unit]
  exact if_pos ⟨begun, room, h⟩

theorem readReplay_of_done {s : State} {p : Replay} (unit : s.replay = some p)
    (done : ¬ (p.begun = true ∧ p.places.length < Config.replayPlaces ∧ p.target < p.readCursor)) (n : Nat) :
    State.readReplay n s = s := by
  cases n with
  | zero => rfl
  | succ n =>
    rw [State.readReplay, unit]
    exact if_neg done

/-- The replay unit takes a place for each seq it reads, and hands the seq's two reads (R147). -/
theorem readReplay_eq (n : Nat) (s : State) {p : Replay} (unit : s.replay = some p) (begun : p.begun = true)
    (room : p.places.length + n ≤ Config.replayPlaces) :
    State.readReplay n s = { s.slotReads .replayHeader .replayData (p.nextSeqs n) with
      replay := some { p with places := p.places ++ (p.nextSeqs n).map freshReplayPlace
                              readCursor := p.readCursor - (p.nextSeqs n).length } } := by
  induction n generalizing s p with
  | zero =>
    have none : p.nextSeqs 0 = [] := by simp [Replay.nextSeqs]
    rw [State.readReplay, none, List.map_nil, List.append_nil, slotReads_nil]
    exact congrArg (fun x => { s with replay := x }) unit
  | succ n ih =>
    by_cases h : p.target < p.readCursor
    · have rest := ih { s.readSlot .replayHeader .replayData p.readCursor with
          replay := some { p with places := p.places ++ [freshReplayPlace p.readCursor], readCursor := p.readCursor - 1 } }
        (p := { p with places := p.places ++ [freshReplayPlace p.readCursor], readCursor := p.readCursor - 1 })
        rfl begun (by simp; omega)
      rw [readReplay_of_room unit begun (by omega) h, rest, slotReads_withReplay]
      have next := nextSeqs_succ (p := p) (q := { p with places := p.places ++ [freshReplayPlace p.readCursor]
                                                         readCursor := p.readCursor - 1 }) h rfl rfl n
      rw [next, slotReads_cons]
      simp only [List.map_cons, List.append_assoc, List.singleton_append, List.length_cons, Nat.sub_sub, Nat.add_comm 1]
    · rw [readReplay_of_done unit (fun due => h due.2.2), nextSeqs_of_done (Nat.le_of_not_lt h), List.map_nil, List.append_nil,
        slotReads_nil]
      exact congrArg (fun x => { s with replay := x }) unit

/-! ## REPLAY_START -/

theorem exec_replayStart {s : State} (hr : s.rstn = true) (rolling : s.eng.state = .rolling) (returned : s.watch.occasion = .returned) :
    exec .replayStart s = .next s.nextEvent.beginReplay.finish := by
  have due : s.nextEvent.replayDue = true := by simp [State.replayDue, rolling, returned]
  show execReplayStart s = _
  rw [execReplayStart, running_of_high hr, if_pos due]

/-- The state in which the walk of the ring begins (R147). -/
def State.walking (s : State) (p : Replay) : State :=
  { s with watch := { s.watch with occasion := .idle }, replay := some { p with begun := true } }

theorem beginReplay_eq {s : State} {p : Replay} (unit : s.replay = some p) :
    s.beginReplay = (State.readReplay Config.replayPlaces (s.walking p)).checkRollback := by
  rw [State.beginReplay, unit]; rfl

theorem beginReplay_of_empty {s : State} {p : Replay} (unit : s.replay = some p) (rolling : s.eng.state = .rolling)
    (places : p.places = []) (read : p.readCursor = p.target) (cursor : p.cursor = p.target) :
    s.beginReplay = (s.walking p).endRollback := by
  have done : State.readReplay Config.replayPlaces (s.walking p) = s.walking p :=
    readReplay_of_done (p := { p with begun := true }) rfl (fun due => Nat.lt_irrefl _ (read ▸ due.2.2)) _
  rw [beginReplay_eq unit, done]
  exact if_pos (by simp [State.rollbackDue, State.walking, rolling, cursor, places])

theorem checkRollback_of_places {s : State} {k : Replay} (unit : s.replay = some k) (h : k.places ≠ []) : s.checkRollback = s :=
  if_neg (by simp [State.rollbackDue, unit, h])

/-- While reads are outstanding the rollback does not end. -/
theorem beginReplay_of_reading {s : State} {p : Replay} (unit : s.replay = some p) (places : p.places = [])
    (below : p.target < p.readCursor) : s.beginReplay =
      { (s.walking p).slotReads .replayHeader .replayData (p.nextSeqs 8) with
        replay := some { p with
          begun := true, places := (p.nextSeqs 8).map freshReplayPlace, readCursor := p.readCursor - (p.nextSeqs 8).length } } := by
  have read := readReplay_eq 8 (s.walking p) (p := { p with begun := true }) rfl rfl (by simp [places, Config.replayPlaces])
  have some : p.nextSeqs 8 ≠ [] := by simp [Replay.nextSeqs]; omega
  rw [beginReplay_eq unit, Config.replayPlaces, read, places, List.nil_append]
  exact checkRollback_of_places rfl (by rw [Ne, List.map_eq_nil_iff]; exact some)

/-- Settles O30: an empty walk ends the rollback, and any other reads up to eight slots. -/
theorem replayReadsSlots : Obligations.ReplayReadsSlots := by
  intro s p hr settled rolling returned unit places
  rw [exec_replayStart hr rolling returned]
  refine ⟨fun read cursor => ?_, fun below => ?_⟩
  · rw [beginReplay_of_empty (s := s.nextEvent) unit rolling places read cursor]
    have ended := exec_rollbackEnd (s := { s with watch := { s.watch with occasion := .idle }, replay := some { p with begun := true } })
      (p := { p with begun := true }) hr rolling rfl rfl cursor places
    rw [ended]; rfl
  · have count : (p.nextSeqs 8).length = min 8 (p.readCursor - p.target) := by simp [Replay.nextSeqs]
    have reads := beginReplay_of_reading (s := s.nextEvent) unit places below
    rw [slotReads_eq] at reads
    have same : s.nextEvent.beginReplay.finish = s.nextEvent.beginReplay := by
      rw [reads]
      exact finish_of_same settled rfl (by simp [State.quiesceDue, State.walking, rolling]) (by simp [State.resetDue, State.walking, rolling])
    rw [same, reads]
    refine ⟨_, _, rfl, rfl, rfl, ?_, ?_, congrArg (p.readCursor - ·) count, rfl, rfl, ?_, rfl, rfl, rfl, rfl, rfl, rfl, rfl, rfl, rfl,
      rfl, rfl, rfl, rfl⟩
    · rw [List.map_map]
      exact List.map_id _
    · intro x hx
      obtain ⟨q, _, rfl⟩ := List.mem_map.mp hx
      exact ⟨rfl, rfl⟩
    · exact slotReads_down_congr (s := { s with eventNo := s.eventNo + 1 }) (t := s.nextEvent.walking p) rfl rfl rfl _ _ _

end Sys2Proof.Machine
end


section
/-! SUPPORT. The end of a scan (R162 to R166): what is installed, the state it ends in, and its events in order. -/

namespace Sys2Proof.Machine

/-! ## When it is due -/

theorem exec_scanEnd {s : State} {c : Scan} (hr : s.rstn = true) (scanning : s.eng.state = .scanning) (unit : s.scan = some c)
    (stopped : c.stopped = true) (returned : ∀ x ∈ c.places, x.reading = false) : exec .scanEnd s = .next s.nextEvent.endScan.finish := by
  have due : s.nextEvent.scanDue = true := by simpa [State.scanDue, scanning, unit, stopped] using returned
  show execScanEnd s = _
  rw [execScanEnd, running_of_high hr, if_pos due]

/-! ## The state it ends in -/

/-- The cause that a stored cause code names. -/
theorem causeOfCode_eq {n : Nat} (low : 1 ≤ n) (high : n ≤ 7) :
    some ((causeOfCode n).getD .recordFault) = [Cause.oldDataFault, .recordFault, .stallExpired, .ringFullBreak, .controlFault,
      .rollbackFault, .recoveredAfterStop][n - 1]? := by
  interval_cases n <;> rfl

/-- The broken cause that the stored state gives (R165). -/
theorem scanCause_eq {c : Scan} (state : c.storedState ≤ 3) (code : c.storedState = 2 → 1 ≤ c.storedCause ∧ c.storedCause ≤ 7) :
    c.cause = if c.storedState = 0 then some .recoveredAfterStop
      else if c.storedState = 2 then [Cause.oldDataFault, .recordFault, .stallExpired, .ringFullBreak, .controlFault,
        .rollbackFault, .recoveredAfterStop][c.storedCause - 1]?
      else if c.storedState = 3 ∧ ∀ e ∈ c.built, e.seq ≠ c.storedTarget then some .rollbackFault
      else none := by
  have cases : c.storedState = 0 ∨ c.storedState = 1 ∨ c.storedState = 2 ∨ c.storedState = 3 := by omega
  unfold Scan.cause
  rcases cases with h | h | h | h
  · simp [h]
  · simp [h]
  · obtain ⟨low, high⟩ := code h
    simp only [h, ← causeOfCode_eq low high]; rfl
  · by_cases listed : ∃ e ∈ c.built, e.seq = c.storedTarget
    · have found : (c.built.any fun e => decide (e.seq = c.storedTarget)) = true := by simpa using listed
      have held : ¬ ∀ e ∈ c.built, e.seq ≠ c.storedTarget := fun none => listed.elim fun e he => none e he.1 he.2
      simp [h, found, held]
    · have missing : (c.built.any fun e => decide (e.seq = c.storedTarget)) = false := by simpa using listed
      have absent : ∀ e ∈ c.built, e.seq ≠ c.storedTarget := fun e he hs => listed ⟨e, he, hs⟩
      simp only [h, missing, Bool.false_eq_true, if_false]
      simp; exact absent

/-- The code of that cause (R137, R165). -/
theorem scanCause_code {c : Scan} {k : Cause} (h : c.cause = some k) (code : c.storedState = 2 → 1 ≤ c.storedCause ∧ c.storedCause ≤ 7) :
    k.code = if c.storedState = 0 then 7 else if c.storedState = 2 then c.storedCause else 6 := by
  unfold Scan.cause at h
  split at h
  · rename_i h0; cases h; simp [h0, Cause.code]
  · rename_i h2
    obtain ⟨low, high⟩ := code h2
    cases h
    rw [h2]
    generalize c.storedCause = n at low high
    interval_cases n <;> rfl
  · rename_i h3
    split at h <;> cases h
    simp [h3, Cause.code]
  · cases h

/-! ## The conclusion -/

/-- The state that the scan's conclusion enters, before its events (R165). -/
def State.concluding (s : State) (c : Scan) : State :=
  { s with eng := { s.eng with
      state := scanState c.cause, pendingTarget := if c.storedState = 3 then some c.storedTarget else none } }

/-- Dropped entries (R163). -/
def Scan.droppedEvents (c : Scan) : List EventRecord :=
  if c.dropped = 0 then [] else [{
    kind := .markRefused, state := scanState c.cause, seq := some c.newestDropped, detail := some c.dropped, count := some (6 + 256 * 5) }]

/-- A table that the run filled, unless the scan ends in BROKEN (R163). -/
def Scan.saturatedEvents (c : Scan) : List EventRecord :=
  if c.cause = none ∧ c.table.saturated = true then [{
    kind := .saturated, state := scanState c.cause, seq := some c.fullAt, detail := none, count := some 8192 }] else []

/-- RING_HIGH at the end of the scan (R17). -/
def State.scanHighEvents (s : State) (c : Scan) : List EventRecord :=
  if s.isHigh = true ∧ s.ring.highArmed = true then [{
    kind := .ringHigh, state := scanState c.cause, seq := some s.ring.tail, detail := some s.occupancy, count := none }] else []

/-- BROKEN at the end of the scan (R165). -/
def State.scanBrokenEvents (s : State) (c : Scan) : List EventRecord :=
  match c.cause with
  | none => []
  | some k => [{ kind := .broken, state := .broken, seq := some s.ring.frontier, detail := some k.code
                 count := some (s.ring.tail - s.ring.frontier) }]

/-- RECOVER_DONE (R166). -/
def State.scanDoneEvents (s : State) (c : Scan) : List EventRecord :=
  [{ kind := .recoverDone, state := scanState c.cause, seq := some s.ring.tail, detail := some s.occupancy
     count := some (256 * s.segments.length + if c.storedState = 3 then 65536 else 0) }]

/-- The dropped entries' event, and nothing else. -/
theorem raiseDropped_eq (s : State) (c : Scan) (state : s.eng.state = scanState c.cause) :
    s.raiseDropped c = { s with port := c.droppedEvents.foldl Port.append s.port } := by
  unfold State.raiseDropped Scan.droppedEvents
  split
  · rfl
  · simp only [State.raise, state]; rfl

theorem raiseSaturated_eq (s : State) (c : Scan) (state : s.eng.state = scanState c.cause) (sound : c.cause = none) :
    (if c.table.saturated then s.raise .saturated (some c.fullAt) none (some Config.touchPlaces) else s) =
      { s with port := c.saturatedEvents.foldl Port.append s.port } := by
  unfold Scan.saturatedEvents
  cases saturated : c.table.saturated
  · simp
  · simp only [sound, State.raise, state]; rfl

theorem occupancyChanged_eq (s : State) (c : Scan) (state : s.eng.state = scanState c.cause) :
    s.occupancyChanged = { s with
      ring := { s.ring with highArmed := !s.isHigh }, port := (s.scanHighEvents c).foldl Port.append s.port } := by
  unfold State.occupancyChanged State.scanHighEvents
  cases high : s.isHigh
  · simp
  · cases armed : s.ring.highArmed
    · simp
    · simp [state]

theorem raiseRecovered_port (s : State) (c : Scan) (state : s.eng.state = scanState c.cause)
    (target : s.eng.pendingTarget = if c.storedState = 3 then some c.storedTarget else none) :
    s.raiseRecovered.port = (s.scanDoneEvents c).foldl Port.append s.port := by
  have some : 65536 * s.eng.pendingTarget.isSome.toNat = if c.storedState = 3 then 65536 else 0 := by
    rw [target]; split <;> rfl
  simp [State.raiseRecovered, State.scanDoneEvents, some, state]

/-- All the events of the scan's conclusion, in the order of R166. -/
def State.scanEvents (s : State) (c : Scan) : List EventRecord :=
  c.droppedEvents ++ c.saturatedEvents ++ s.scanHighEvents c ++ s.scanBrokenEvents c ++ s.scanDoneEvents c

/-- What the conclusion of a scan does to the state `v` with the run installed (R165, R166). -/
structure Concludes (v : State) (c : Scan) (t : State) : Prop where
  eng : t.eng = { v.eng with
    state := scanState c.cause, cause := c.cause, pendingTarget := if c.storedState = 3 then some c.storedTarget else none }
  ring : t.ring = { v.ring with highArmed := !v.isHigh }
  segments : t.segments = v.segments
  touch : t.touch = if c.cause = none then v.touch else Touch.empty
  scan : t.scan = v.scan
  hold : t.hold = { v.hold with queue := wakeEntries (if c.cause = none then Wait.clearedByEngine else Wait.clearedByBroken) v.hold.queue }
  up : t.up = v.up
  stall : t.stall = none
  timer : t.timer = v.timer
  views : t.views = v.views
  replay : t.replay = v.replay
  slots : t.slots = if c.cause = none then v.slots else abandonSlots v.slots
  watch : t.watch =
    if v.watch.outstanding = true then { v.watch with updatePending := true } else { v.watch with outstanding := true }
  down : t.down = if v.watch.outstanding = true then v.down
    else (v.handOwn (.write t.statusLine) v.layout.controlLine statusMask .status).down
  port : t.port = (v.scanEvents c).foldl Port.append v.port

/-- A status write that waits for nothing, by the watch unit's flag (R110). -/
theorem requestStatus_false_watch (s : State) : (s.requestStatus false).watch =
    if s.watch.outstanding = true then { s.watch with updatePending := true } else { s.watch with outstanding := true } := by
  split
  · rw [requestStatus_of_outstanding ‹_›]
  · rw [requestStatus_of_free (eq_false_of_ne_true ‹_›)]

theorem requestStatus_false_down (s : State) : (s.requestStatus false).down =
    if s.watch.outstanding = true then s.down
    else (s.handOwn (.write s.statusLine) s.layout.controlLine statusMask .status).down := by
  split
  · rw [requestStatus_of_outstanding ‹_›]
  · rw [requestStatus_of_free (eq_false_of_ne_true ‹_›)]

/-- The state that a sound scan goes into ACTIVE from. -/
theorem concludeScan_of_sound {v : State} {c : Scan} (sound : c.cause = none) :
    v.concludeScan c = (((State.occupancyChanged { v.concluding c with
      port := (c.droppedEvents ++ c.saturatedEvents).foldl Port.append v.port }).enterActive).requestStatus false).raiseRecovered := by
  have dropped := raiseDropped_eq (v.concluding c) c rfl
  have saturated := raiseSaturated_eq { v.concluding c with port := c.droppedEvents.foldl Port.append v.port } c rfl sound
  rw [List.foldl_append]
  unfold State.concludeScan
  simp only [sound, State.concluding] at dropped saturated ⊢
  rw [dropped, saturated]

/-- The state that a scan with a cause goes into BROKEN from. -/
theorem concludeScan_of_cause {v : State} {c : Scan} {k : Cause} (broken : c.cause = some k) :
    v.concludeScan c = ((State.occupancyChanged { v.concluding c with
      port := c.droppedEvents.foldl Port.append v.port }).enterBroken k).raiseRecovered := by
  have dropped := raiseDropped_eq (v.concluding c) c rfl
  unfold State.concludeScan
  simp only [broken, State.concluding] at dropped ⊢
  rw [dropped]

/-- The state in which the scan's conclusion enters ACTIVE or BROKEN. -/
def State.scanned (v : State) (c : Scan) : State :=
  State.occupancyChanged { v.concluding c with port := (c.droppedEvents ++ c.saturatedEvents).foldl Port.append v.port }

theorem scanned_eq (v : State) (c : Scan) : v.scanned c = { v.concluding c with
    ring := { v.ring with highArmed := !v.isHigh }
    port := (c.droppedEvents ++ c.saturatedEvents ++ v.scanHighEvents c).foldl Port.append v.port } := by
  rw [State.scanned, occupancyChanged_eq _ c rfl]
  simp only [List.foldl_append]
  rfl

theorem scanState_of_none {c : Scan} (h : c.cause = none) : scanState c.cause = .active := by rw [h]; rfl

theorem scanState_of_some {c : Scan} {k : Cause} (h : c.cause = some k) : scanState c.cause = .broken := by rw [h]; rfl

theorem saturatedEvents_of_cause {c : Scan} {k : Cause} (h : c.cause = some k) : c.saturatedEvents = [] := by
  simp [Scan.saturatedEvents, h]

theorem raiseRecovered_frame (s : State) : s.raiseRecovered = { s with port := s.raiseRecovered.port } := rfl

theorem concludeScan_concludes_sound {v : State} {c : Scan} (cause : v.eng.cause = none) (stall : v.stall = none)
    (sound : c.cause = none) : Concludes v c (v.concludeScan c) := by
  have entered : v.concludeScan c = ((v.scanned c).enterActive.requestStatus false).raiseRecovered := concludeScan_of_sound sound
  have fields := scanned_eq v c
  have eng : (v.concludeScan c).eng = { v.eng with
      state := scanState c.cause, cause := c.cause, pendingTarget := if c.storedState = 3 then some c.storedTarget else none } := by
    rw [entered, scanState_of_none sound, sound, ← cause]
    simp [State.raiseRecovered, fields, State.concluding]
  have line : (v.concludeScan c).statusLine = (v.scanned c).enterActive.statusLine := by
    rw [entered]; exact statusLine_congr (by simp [State.raiseRecovered]) (by simp [State.raiseRecovered])
      (by simp [State.raiseRecovered]) (by simp [State.raiseRecovered])
  have watch := requestStatus_false_watch (v.scanned c).enterActive
  have down := requestStatus_false_down (v.scanned c).enterActive
  refine ⟨eng, ?_, ?_, ?_, ?_, ?_, ?_, ?_, ?_, ?_, ?_, ?_, ?_, ?_, ?_⟩
  case refine_12 => rw [entered, raiseRecovered_frame]; exact watch.trans (by simp [fields, State.concluding])
  case refine_13 => rw [line, entered, raiseRecovered_frame]; exact down.trans (by simp [fields, State.concluding])
  case refine_14 =>
    rw [entered, raiseRecovered_port _ c (by simp [scanState_of_none sound]) (by simp [fields, State.concluding])]
    simp [fields, State.scanEvents, State.scanBrokenEvents, State.scanDoneEvents, sound, State.concluding, State.occupancy]
  all_goals rw [entered, raiseRecovered_frame]; simp [fields, State.concluding, sound, stall, wakeEntries_clearedByEngine]

theorem concludeScan_concludes_broken {v : State} {c : Scan} {k : Cause} (cause : v.eng.cause = none) (broken : c.cause = some k) :
    Concludes v c (v.concludeScan c) := by
  have entered : v.concludeScan c = ((v.scanned c).enterBroken k).raiseRecovered := by
    rw [concludeScan_of_cause broken, State.scanned, saturatedEvents_of_cause broken, List.append_nil]
  have fields := scanned_eq v c
  have eng : (v.concludeScan c).eng = { v.eng with
      state := scanState c.cause, cause := c.cause, pendingTarget := if c.storedState = 3 then some c.storedTarget else none } := by
    rw [entered, scanState_of_some broken, broken]
    simp [State.raiseRecovered, fields, State.concluding, cause]
  have line : (v.concludeScan c).statusLine = ((v.scanned c).brokenBefore k).statusLine := by
    rw [entered]; exact statusLine_congr (by simp [State.raiseRecovered]; rfl) (by simp [State.raiseRecovered]; rfl)
      (by simp [State.raiseRecovered]; rfl) (by simp [State.raiseRecovered]; rfl)
  have watch := (enterBroken_link (v.scanned c) k).1.trans (requestStatus_false_watch _)
  have down := (enterBroken_link (v.scanned c) k).2.trans (requestStatus_false_down _)
  refine ⟨eng, ?_, ?_, ?_, ?_, ?_, ?_, ?_, ?_, ?_, ?_, ?_, ?_, ?_, ?_⟩
  case refine_12 => rw [entered, raiseRecovered_frame]; exact watch.trans (by rw [fields]; rfl)
  case refine_13 => rw [line, entered, raiseRecovered_frame]; exact down.trans (by rw [fields]; rfl)
  case refine_14 =>
    rw [entered, raiseRecovered_port _ c (by simp [scanState_of_some broken]) (by simp [fields, State.concluding])]
    simp [fields, State.scanEvents, State.scanBrokenEvents, State.scanDoneEvents, broken, State.concluding, State.occupancy]
  all_goals rw [entered, raiseRecovered_frame]; simp [fields, State.concluding, broken]

/-- The conclusion of a scan, sound or broken (R165, R166). -/
theorem concludeScan_concludes {v : State} {c : Scan} (cause : v.eng.cause = none) (stall : v.stall = none) :
    Concludes v c (v.concludeScan c) := by
  cases k : c.cause with
  | none => exact concludeScan_concludes_sound cause stall k
  | some k => exact concludeScan_concludes_broken cause k

/-! ## What is installed -/

theorem endScan_of_built {s : State} {c : Scan} (unit : s.scan = some c) (built : c.built ≠ []) :
    s.endScan = (s.installScan c).concludeScan c := by
  have listed : (s.installScan c).segments = c.built := by unfold State.installScan; dsimp only; split <;> rfl
  have some : (!(s.installScan c).segments.isEmpty) = true := by simpa [listed] using built
  rw [State.endScan, unit]
  exact if_pos some

/-- The state with an empty run installed. -/
def State.installEmpty (s : State) (c : Scan) : State :=
  { s with ring := { s.ring with head := c.startSeq, frontier := c.cursor, tail := c.cursor }, segments := [], touch := c.table, scan := none }

theorem installScan_empty (s : State) {c : Scan} (empty : c.built = []) : s.installScan c = s.installEmpty c := by
  simp [State.installScan, empty, State.installEmpty]

theorem endScan_of_marked {s : State} {c : Scan} (unit : s.scan = some c) (empty : c.built = [])
    (space : c.cursor - c.startSeq < s.layout.capacity) : s.endScan = (s.installEmpty c).recoverMark.concludeScan c := by
  have room : (s.installEmpty c).hasSpace = true := decide_eq_true space
  rw [State.endScan, unit]
  dsimp only
  rw [installScan_empty s empty, if_neg (by simp [State.installEmpty]), if_pos room]

theorem endScan_of_full {s : State} {c : Scan} (unit : s.scan = some c) (empty : c.built = [])
    (full : s.layout.capacity ≤ c.cursor - c.startSeq) : s.endScan =
      (State.raiseMarkRefused { s.installEmpty c with eng := { s.eng with state := .off } } .recover 0 .ringFull).failScan 4 := by
  have none : (s.installEmpty c).hasSpace = false := decide_eq_false (Nat.not_lt.mpr full)
  rw [State.endScan, unit]
  dsimp only
  rw [installScan_empty s empty, if_neg (by simp [State.installEmpty]), if_neg (by simp [none])]
  rfl

/-- The run's list begins at or below L, and H is clamped to it (R162). -/
theorem installScan_built (s : State) {c : Scan} {l : Segment} (last : c.built.getLast? = some l) : s.installScan c = { s with
    ring := { s.ring with head := min c.startSeq l.seq, frontier := c.cursor, tail := c.cursor }, segments := c.built, touch := c.table
    scan := none } := by
  have some : c.built.isEmpty = false := by
    cases h : c.built with
    | nil => simp [h] at last
    | cons => rfl
  simp [State.installScan, some, State.segmentStart, last]

/-- The mask after power-on enables every kind (R192). -/
theorem enables_of_full {p : Port} (h : p.mask = 0xFFFF) (k : EventKind) : p.enables k = true := by
  rw [Port.enables, h]
  cases k <;> decide

theorem scanEvents_length (s : State) (c : Scan) : (s.scanEvents c).length ≤ 4 := by
  have dropped : c.droppedEvents.length ≤ 1 := by unfold Scan.droppedEvents; split <;> simp
  have high : (s.scanHighEvents c).length ≤ 1 := by unfold State.scanHighEvents; split <;> simp
  have either : (c.saturatedEvents ++ s.scanBrokenEvents c).length ≤ 1 := by
    unfold Scan.saturatedEvents State.scanBrokenEvents
    cases c.cause with
    | none => simp only [true_and]; split <;> simp
    | some k => simp
  simp only [State.scanEvents, State.scanDoneEvents, List.length_append, List.length_singleton] at either ⊢
  omega

/-- The events of a conclusion find room in the queue (R190). -/
theorem scanEvents_queued {s t : State} {c : Scan} (port : t.port = (s.scanEvents c).foldl Port.append s.port) (mask : s.port.mask = 0xFFFF)
    (room : s.port.events.length < 28) : t.port.events = s.port.events ++ s.scanEvents c := by
  have few := scanEvents_length s c
  rw [port, foldl_append _ (fun r _ => enables_of_full mask r.kind) (by simp only [Config.eventPlaces]; omega)]

theorem wakeEntries_atConclusion (cause : Option Cause) (q : List Entry) :
    wakeEntries (if cause = none then Wait.clearedByEngine else Wait.clearedByBroken) q = q.map fun e =>
      match e.wait with
      | .engine | .slot | .space => { e with wait := .ready }
      | .record _ => if cause = none then e else { e with wait := .ready }
      | .line | .place | .issue | .ready => e := by
  refine List.map_congr_left fun e _ => ?_
  cases cause <;> cases e.wait <;> rfl

theorem scanState_eq (cause : Option Cause) : scanState cause = if cause = none then EngineState.active else .broken := by
  cases cause <;> rfl

/-- The RECOVER marker of an empty run: H stays at the start seq (R164). -/
theorem recoverMark_eq {s : State} {c : Scan} (order : c.startSeq ≤ c.cursor) (h : Header)
    (header : (s.installEmpty c).markHeader .recover 0 = h) (seq : h.seq = c.cursor) : (s.installEmpty c).recoverMark = { s with
      ring := { s.ring with head := c.startSeq, frontier := c.cursor, tail := c.cursor + 1 }
      segments := [{ seq := c.cursor, tag := 0, source := .recover }], touch := Touch.empty, scan := none, slots := [headerSlot h]
      down := (s.handOwn (.write (headerLine h 0)) (s.layout.headerAddr c.cursor) (BitVec.allOnes 64) (.recordHeader c.cursor)).down } := by
  have head : min c.startSeq c.cursor = c.startSeq := Nat.min_eq_left order
  simp only [State.recoverMark, header, State.handHeader, seq]
  simp only [State.installEmpty, head]
  rfl

theorem scanBrokenEvents_eq (s : State) {c : Scan} (code : c.storedState = 2 → 1 ≤ c.storedCause ∧ c.storedCause ≤ 7) :
    s.scanBrokenEvents c = if c.cause = none then [] else [{
      kind := .broken, state := scanState c.cause, seq := some s.ring.frontier
      detail := some (if c.storedState = 0 then 7 else if c.storedState = 2 then c.storedCause else 6)
      count := some (s.ring.tail - s.ring.frontier) }] := by
  unfold State.scanBrokenEvents
  cases h : c.cause with
  | none => rfl
  | some k => rw [← scanCause_code h code]; rfl

theorem failScan_port (s : State) (result : Nat) : (s.failScan result).port = s.port.append
    { kind := .recoverDone, state := .off, seq := some 0, detail := some 0, count := some result } := rfl

/-- Settles O33: a run of records, an empty run with room for a marker, and an empty run in a full ring. -/
theorem scanEnds : Obligations.ScanEnds := by
  intro s c hr scanning unit stopped returned sound noStall stored code order cause state target offered high h u marked withStatus ends
  have named : c.cause = cause := scanCause_eq stored code
  have conclude : ∀ (head tail : Nat) (list : List Segment) (table : Touch) (slots : List Slot) (d : DownLink) (t : State),
      Concludes { s.nextEvent with
        ring := { s.ring with head := head, frontier := c.cursor, tail := tail }, segments := list, touch := table, scan := none
        slots := slots, down := d } c t → ends t head tail list table := by
    intro head tail list table slots d t done
    refine ⟨?_, done.ring, done.segments, ?_, done.scan, ?_, done.up, done.stall, done.timer, done.views, done.replay, done.watch,
      fun mask room => ?_⟩
    · rw [done.eng, named, scanState_eq]; rfl
    · rw [done.touch, named]; rfl
    · rw [done.hold, wakeEntries_atConclusion, named]; rfl
    · rw [scanEvents_queued done.port mask room]
      simp only [State.scanEvents, scanBrokenEvents_eq _ code, Scan.droppedEvents, Scan.saturatedEvents, State.scanHighEvents,
        State.scanDoneEvents, named, scanState_eq, ← List.append_assoc]
      rfl
  have empty_finish : ∀ t : State, t.hold = { s.hold with queue := offered s.hold.queue } → t.eng.state ∈ [EngineState.active, .broken] →
      s.hold = { queue := [], waiting := none } → t.finish = t := by
    intro t hold aim empty
    refine finish_of_empty ?_ (by rintro e; simp [e] at aim) (by rintro e; simp [e] at aim)
    rw [hold, empty]; rfl
  refine ⟨fun l last => ?_, fun empty space => ?_, fun empty full => ?_⟩
  · have built : c.built ≠ [] := by rintro h; simp [h] at last
    have done := concludeScan_concludes (v := s.nextEvent.installScan c) (c := c)
      (by rw [installScan_built _ last]; exact sound) (by rw [installScan_built _ last]; exact noStall)
    rw [← endScan_of_built (s := s.nextEvent) unit built, installScan_built _ last] at done
    have concluded := conclude _ _ _ _ _ _ _ done
    refine ⟨s.nextEvent.endScan, exec_scanEnd hr scanning unit stopped returned, ?_, concluded, fun good => ?_, fun bad j => ?_, ?_⟩
    · refine empty_finish _ concluded.2.2.2.2.2.1 ?_
      rw [done.eng]; cases c.cause <;> simp [scanState]
    · rw [done.slots, named, if_pos good]; rfl
    · rw [done.slots, named, if_neg bad]; exact mem_abandonSlots
    · exact done.down
  · have marks := recoverMark_eq (s := s.nextEvent) order h rfl rfl
    have done := concludeScan_concludes (v := (s.nextEvent.installEmpty c).recoverMark) (c := c)
      (by rw [marks]; exact sound) (by rw [marks]; exact noStall)
    rw [← endScan_of_marked (s := s.nextEvent) unit empty space, marks] at done
    have concluded := conclude _ _ _ _ _ _ _ done
    refine ⟨s.nextEvent.endScan, exec_scanEnd hr scanning unit stopped returned, ?_, concluded, ?_, done.down⟩
    · refine empty_finish _ concluded.2.2.2.2.2.1 ?_
      rw [done.eng]; cases c.cause <;> simp [scanState]
    · rw [done.slots, named]
      by_cases good : cause = none
      · rw [if_pos good, decide_eq_false (fun bad => bad good)]; rfl
      · rw [if_neg good, decide_eq_true good]; rfl
  · have failed := endScan_of_full (s := s.nextEvent) unit empty full
    have off : s.nextEvent.endScan.eng.state = .off := by rw [failed]; rfl
    have hold : s.nextEvent.endScan.hold = { s.hold with queue := decidableNow [.engine, .slot, .space] s.hold.queue } := by
      rw [failed]; exact enterOff_hold _
    refine ⟨s.nextEvent.endScan, exec_scanEnd hr scanning unit stopped returned, fun none => ?_, by rw [failed]; rfl,
      by rw [failed]; rfl, by rw [failed]; rfl, by rw [failed]; rfl, by rw [failed]; rfl, by rw [failed]; rfl, by rw [failed]; rfl,
      by rw [failed]; rfl, by rw [failed]; rfl, by rw [failed]; rfl, by rw [failed]; rfl, by rw [failed]; rfl, by rw [failed]; rfl,
      hold, fun mask room => ?_⟩
    · exact finish_of_empty (by rw [hold, none]; rfl) (by simp [off]) (by simp [off])
    · have queued := foldl_append (p := s.port)
        [{ kind := .markRefused, state := .off, seq := none, detail := some 0, count := some (6 + 256 * 6) },
         { kind := .recoverDone, state := .off, seq := some 0, detail := some 0, count := some 4 }]
        (fun r _ => enables_of_full mask r.kind) (by simp [Config.eventPlaces]; omega)
      rw [failed, failScan_port]
      exact (congrArg Port.events queued :)

end Sys2Proof.Machine
end


section
/-! SUPPORT. The upstream link: the handshake, the answers of classification, the mode of a line (R44 to R56, R172, R173, R175). -/

namespace Sys2Proof.Machine

/-! ## The handshake -/

theorem exec_request_of_withheld {s : State} (h : s.upReady = false) (r : UpRequest) : exec (.upstreamRequest r) s = .next s :=
  if_neg (by simp [h])

theorem exec_request_of_reused {s : State} {r : UpRequest} (h : s.upReady = true) (used : r.tag ∈ s.up.tags) :
    exec (.upstreamRequest r) s = .next (s.nextEvent.raise .tagReuse none (some r.tag.toNat) (some (linkOpCode r.op))) := by
  show execUpstreamRequest r s = _
  simp only [execUpstreamRequest, h, if_true, State.takeRequest]
  rw [if_pos (by exact used)]

theorem mem_sendWaiting_tags (u : UpLink) (tag : UpTag) :
    tag ∈ u.sendWaiting.tags ↔ tag ∈ u.tags ∧ ∀ q ∈ u.respWaiting, q.tag ≠ tag := by
  simp [UpLink.sendWaiting]

/-- Settles O34, by the two branches of each handshake and of the answer. -/
theorem upstreamHandshake : Obligations.UpstreamHandshake := by
  refine fun s => ⟨fun r withheld => exec_request_of_withheld withheld r, fun r ready used => ?_,
    fun high => ⟨_, if_pos high, rfl, rfl, rfl, rfl, rfl, mem_sendWaiting_tags s.up⟩, fun low => if_neg (by simp [low]), rfl,
    fun tag st d nodup => ⟨fun given => ⟨s.up.tags.erase tag, ?_, fun g => ?_⟩, fun withheld => ?_⟩⟩
  · rw [exec_request_of_reused ready used]
    cases r.op <;> rfl
  · rw [State.answer, answer_ready given]
  · rw [nodup.mem_erase_iff, and_comm]
  · rw [State.answer, answer_withheld withheld]

/-! ## Canonical address and mode -/

theorem getLsbD_canonical (a : Addressing) (x : Addr) {i : Nat} (h : i < 40) : (a.canonical x).getLsbD i =
    (x.getLsbD i && !(decide (30 ≤ i) && a.fold.getLsbD (i - 30)) && !decide (a.viewBit = some i)) := by
  have view : a.viewBits.getLsbD i = decide (a.viewBit = some i) := by
    rw [Bool.eq_iff_iff, getLsbD_viewBits, decide_eq_true_iff]
    exact and_iff_left h
  have fold : a.foldBits.getLsbD i = (decide (30 ≤ i) && a.fold.getLsbD (i - 30)) := by
    rw [Bool.eq_iff_iff, getLsbD_foldBits, Bool.and_eq_true, decide_eq_true_iff]
    constructor
    · rintro ⟨j, -, rfl, set⟩
      exact ⟨Nat.le_add_right 30 j, by rwa [Nat.add_sub_cancel_left]⟩
    · exact fun ⟨low, set⟩ => ⟨i - 30, by omega, by omega, set⟩
  simp only [Addressing.canonical, BitVec.getLsbD_and, BitVec.getLsbD_not, BitVec.getLsbD_or, view, fold, h,
    decide_true, Bool.true_and, Bool.not_or, Bool.and_assoc]

theorem contains_iff (r : Region) (x : Addr) :
    r.contains x = true ↔ r.base.toNat ≤ x.toNat ∧ x.toNat < r.base.toNat + 2 ^ r.order := by
  simp [Region.contains]

/-- The governing entry is the first enabled one that contains the line (R49). -/
theorem governingFrom_of_first (x : Addr) (l : List Region) (k i : Nat) (h : i < l.length)
    (own : (l[i].enabled && l[i].contains x) = true)
    (first : ∀ (j : Nat) (hj : j < i), (l[j].enabled && l[j].contains x) = false) :
    governingFrom x k l = some (k + i, l[i].mode) := by
  induction l generalizing k i with
  | nil => exact absurd h (Nat.not_lt_zero i)
  | cons r rs ih =>
    cases i with
    | zero => exact if_pos own
    | succ i =>
      have skipped : (r.enabled && r.contains x) = false := first 0 (Nat.succ_pos i)
      rw [governingFrom, if_neg (by simp [skipped]), ih (k + 1) i (Nat.lt_of_succ_lt_succ h) own
        fun j hj => first (j + 1) (Nat.succ_lt_succ hj)]
      simp [Nat.add_comm, Nat.add_left_comm]

theorem governingFrom_of_none (x : Addr) (l : List Region) (k : Nat)
    (absent : ∀ r ∈ l, (r.enabled && r.contains x) = false) : governingFrom x k l = none := by
  induction l generalizing k with
  | nil => rfl
  | cons r rs ih =>
    rw [governingFrom, if_neg (by simp [absent r]), ih (k + 1) fun q hq => absent q (List.mem_cons_of_mem r hq)]

/-- Settles O35, with the search for the governing entry by induction on the region table. -/
theorem lineAndModeOfARequest : Obligations.LineAndModeOfARequest := by
  refine ⟨fun a x i => getLsbD_canonical a x, fun s x => ⟨fun i h enabled within first => ?_, fun absent => ?_⟩⟩
  · have found : s.governing x = some (i, s.regions[i].mode) := by
      have := governingFrom_of_first x s.regions.toList 0 i (by simpa using h)
        (by simpa [enabled] using (contains_iff _ x).mpr within)
        fun j hj => by
          rw [Bool.and_eq_false_imp]
          exact fun on => Bool.eq_false_iff.mpr fun inside => first j hj (by simpa using on) ((contains_iff _ x).mp (by simpa using inside))
      simpa [State.governing] using this
    simp only [State.mode, State.regionIndex, found, and_self]
  · have none : s.governing x = none := by
      refine governingFrom_of_none x _ 0 fun r hr => ?_
      obtain ⟨i, hi, rfl⟩ := List.mem_iff_getElem.mp hr
      rw [Bool.and_eq_false_imp]
      exact fun on => Bool.eq_false_iff.mpr fun inside =>
        absent i (by simpa using hi) (by simpa using on) ((contains_iff _ x).mp (by simpa using inside))
    simp only [State.mode, none]

/-! ## Answers of classification -/

theorem viewFlag_iff (a : Addressing) (x : Addr) : a.viewFlag x = true ↔ ∃ b, a.viewBit = some b ∧ x.getLsbD b = true := by
  rw [Addressing.viewFlag, decide_eq_true_iff, and_ne_zero_iff]
  simp only [getLsbD_viewBits]
  exact ⟨fun ⟨k, set, view, _⟩ => ⟨k, view, set⟩, fun ⟨b, view, set⟩ => ⟨b, set, view, BitVec.lt_of_getLsbD set⟩⟩

theorem inRing_iff (l : Layout) (x : Addr) :
    l.inRing x = true ↔ l.ringBase.toNat ≤ x.toNat ∧ x.toNat < l.ringBase.toNat + 128 * 2 ^ l.order := by
  rw [Layout.inRing, Bool.and_eq_true, decide_eq_true_iff, decide_eq_true_iff]
  rfl

theorem refusesWrite_iff (s : State) (x : Addr) :
    s.refusesWrite x = true ↔ (s.eng.state ≠ .off ∧ s.layout.inRing x = true) ∨ s.mode x = .frozen := by
  simp [State.refusesWrite]

theorem refusesWrite_of_passed {s : State} {x : Addr} (ring : s.eng.state = .off ∨ s.layout.inRing x = false)
    (mode : s.mode x ≠ .frozen) : s.refusesWrite x = false := by
  rw [Bool.eq_false_iff, Ne, refusesWrite_iff]
  rintro (⟨out, inside⟩ | frozen)
  · rcases ring with off | outside
    · exact out off
    · exact absurd inside (by simp [outside])
  · exact mode frozen

theorem classify_refused {s : State} {r : UpRequest} (ha : r.addr.toNat % 64 = 0) (hm : r.mask ≠ 0) (hw : ∃ d, r.op = .write d)
    (h : s.addressing.viewFlag r.addr = true ∨ s.refusesWrite (s.addressing.canonical r.addr) = true) :
    s.classify r = s.answer r.tag .refused none := by
  obtain ⟨d, write⟩ := hw
  unfold State.classify
  rw [if_neg (by simpa using ha), if_neg hm]
  simp only [write]
  by_cases view : s.addressing.viewFlag r.addr = true
  · rw [if_pos view]
  · rw [if_neg view, if_pos (h.resolve_left view)]

/-- A new tag that is answered at once is in use for no longer than the answer waits (R172, R175). -/
theorem withTag_answer {s : State} {r : UpRequest} (fresh : r.tag ∉ s.up.tags) (st : LinkStatus) (d : Option Line) :
    (s.withTag r).answer r.tag st d = { s with
      eventNo := s.eventNo + 1
      up := if s.up.respReady then { s.up with sent := s.up.sent ++ [{ tag := r.tag, status := st, data := d }] }
        else { s.up with
          tags := s.up.tags ++ [r.tag]
          respWaiting := s.up.respWaiting ++ [{ tag := r.tag, status := st, data := d }] } } := by
  cases given : s.up.respReady
  · rw [State.answer, answer_withheld (by exact given)]
    simp [State.withTag, given]
  · rw [State.answer, answer_ready (by exact given)]
    simp [State.withTag, given, List.erase_append_right _ fresh]

theorem exec_request_answered {s : State} {r : UpRequest} (ready : s.upReady = true) (settled : s.Settled) (fresh : r.tag ∉ s.up.tags)
    {st : LinkStatus} {d : Option Line} (h : (s.withTag r).classify r = (s.withTag r).answer r.tag st d) :
    exec (.upstreamRequest r) s = .next ((s.withTag r).answer r.tag st d) := by
  have running := (ready_of_upReady ready).2.2.1
  have same : ((s.withTag r).answer r.tag st d).Settled := settled_of_same settled rfl rfl rfl (by exact running)
  rw [exec_request_of_new ready fresh, h, finish_of_settled same]

/-- Settles O36, by the branches of classification in the order of R53. -/
theorem answeredAtClassification : Obligations.AnsweredAtClassification := by
  intro r s ready settled fresh answered x
  have answer {st : LinkStatus} {d : Option Line} (h : (s.withTag r).classify r = (s.withTag r).answer r.tag st d) :
      answered st d := (exec_request_answered ready settled fresh h).trans (by rw [withTag_answer fresh])
  refine ⟨fun unaligned => answer (if_pos unaligned), fun aligned empty read => answer ?_, fun aligned empty write => answer ?_,
    fun aligned full write refused => answer (classify_refused aligned full write ?_)⟩
  · rw [State.classify, if_neg (by simpa using aligned), if_pos empty, read]
  · obtain ⟨d, write⟩ := write
    rw [State.classify, if_neg (by simpa using aligned), if_pos empty, write]
  · rcases refused with view | ⟨out, ring⟩ | frozen
    · exact .inl ((viewFlag_iff _ _).mpr view)
    · exact .inr ((refusesWrite_iff _ _).mpr (.inl ⟨out, (inRing_iff _ _).mpr ring⟩))
    · exact .inr ((refusesWrite_iff _ _).mpr (.inr frozen))

end Sys2Proof.Machine
end


section
/-! SUPPORT. What the decision of a request settles, one lemma a row of the tables of R68, R69, R91, R96 to R98 and R114. -/

namespace Sys2Proof.Machine

/-- The long operations, in which a request that needs the engine is held (R68, R114). -/
abbrev heldStates : List EngineState := [.opening, .quiescing, .rolling, .closing, .scanning]

/-- The states in which a view read is lost, by state or by a recorded cause (R96, R98). -/
abbrev State.loses (s : State) : Prop :=
  s.eng.state ∈ [EngineState.off, .broken, .scanning] ∨ (s.eng.state ∈ [EngineState.quiescing, .closing] ∧ s.eng.cause ≠ none)

theorem mem_heldStates {e : EngineState} :
    e ∈ heldStates ↔ e = .opening ∨ e = .quiescing ∨ e = .rolling ∨ e = .closing ∨ e = .scanning := by simp

/-! ## The touch table -/

theorem lookup_isSome_iff (t : Touch) (x : Addr) : (t.lookup x).isSome = true ↔ ∃ e ∈ t.entries, e.line = x := by
  simp [Touch.lookup]

theorem lookup_absent {t : Touch} {x : Addr} (h : ∀ e ∈ t.entries, e.line ≠ x) : (t.lookup x).isSome = false :=
  Bool.eq_false_iff.mpr fun found => by
    obtain ⟨e, he, line⟩ := (lookup_isSome_iff t x).mp found
    exact h e he line

theorem lookup_present {t : Touch} {x : Addr} (h : ∃ e ∈ t.entries, e.line = x) : (t.lookup x).isSome = true :=
  (lookup_isSome_iff t x).mpr h

/-! ## Reads -/

theorem verdict_read_held {s : State} {r : Request} (read : r.kind = .read) (rolling : s.eng.state = .rolling)
    (mode : s.mode r.line = .journaled) (behind : Bool) : s.verdict r behind = .hold .engine := by
  simp [State.verdict, State.readVerdict, read, rolling, mode]

theorem verdict_read_forward {s : State} {r : Request} (read : r.kind = .read) (running : s.eng.state ≠ .resetting)
    (h : s.eng.state ≠ .rolling ∨ s.mode r.line ≠ .journaled) (behind : Bool) : s.verdict r behind = .forward := by
  have free : ¬ (s.eng.state = .rolling ∧ s.mode r.line = .journaled) := fun ⟨rolling, journaled⟩ =>
    h.elim (· rolling) (· journaled)
  simp [State.verdict, State.readVerdict, read, running, free]

/-! ## View reads -/

theorem viewLost_iff (s : State) : s.viewLost = true ↔ s.loses := by
  unfold State.viewLost State.loses
  cases s.eng.state <;> simp [Option.isSome_iff_ne_none]

theorem verdict_view {s : State} {r : Request} (view : r.kind = .viewRead) (running : s.eng.state ≠ .resetting) (behind : Bool) :
    s.verdict r behind = if s.viewLost then .answer .viewLost
      else if s.eng.state = .rolling then .hold .engine
      else if 16 ≤ s.views.length then .hold .place else s.viewSourceVerdict r := by
  simp only [State.verdict, view, State.viewVerdict, if_neg running]
  rfl

theorem verdict_view_lost {s : State} {r : Request} (view : r.kind = .viewRead) (running : s.eng.state ≠ .resetting) (lost : s.loses)
    (behind : Bool) : s.verdict r behind = .answer .viewLost := by
  rw [verdict_view view running, if_pos ((viewLost_iff s).mpr lost)]

theorem verdict_view_rolling {s : State} {r : Request} (view : r.kind = .viewRead) (rolling : s.eng.state = .rolling) (behind : Bool) :
    s.verdict r behind = .hold .engine := by
  have kept : ¬ s.viewLost = true := by simp [State.viewLost, rolling]
  rw [verdict_view view (by simp [rolling]), if_neg kept, if_pos rolling]

theorem verdict_view_full {s : State} {r : Request} (view : r.kind = .viewRead) (running : s.eng.state ≠ .resetting)
    (kept : ¬ s.loses) (rolling : s.eng.state ≠ .rolling) (full : 16 ≤ s.views.length) (behind : Bool) :
    s.verdict r behind = .hold .place := by
  rw [verdict_view view running, if_neg (by rwa [viewLost_iff]), if_neg rolling, if_pos full]

theorem verdict_view_source {s : State} {r : Request} (view : r.kind = .viewRead) (running : s.eng.state ≠ .resetting)
    (kept : ¬ s.loses) (rolling : s.eng.state ≠ .rolling) (room : s.views.length < 16) (behind : Bool) :
    s.verdict r behind = s.viewSourceVerdict r := by
  rw [verdict_view view running, if_neg (by rwa [viewLost_iff]), if_neg rolling, if_neg (Nat.not_le.mpr room)]

theorem viewSource_unjournaled {s : State} {r : Request} (h : s.mode r.line ≠ .journaled) : s.viewSourceVerdict r = .view .live :=
  if_neg h

theorem viewSource_slot {s : State} {r : Request} {q : Nat} (journaled : s.mode r.line = .journaled)
    (h : s.touch.lookup r.line = some q) : s.viewSourceVerdict r = .view (.slot q) := by
  rw [State.viewSourceVerdict, if_pos journaled, h]

theorem viewSource_live {s : State} {r : Request} (absent : s.touch.lookup r.line = none) (exact : s.touch.saturated = false) :
    s.viewSourceVerdict r = .view .live := by
  simp [State.viewSourceVerdict, absent, exact]

theorem viewSource_lost {s : State} {r : Request} (journaled : s.mode r.line = .journaled) (absent : s.touch.lookup r.line = none)
    (saturated : s.touch.saturated = true) : s.viewSourceVerdict r = .answer .viewLost := by
  rw [State.viewSourceVerdict, if_pos journaled, absent]
  exact if_pos saturated

/-! ## Writes -/

theorem verdict_write_refused {s : State} {r : Request} {d : Line} (write : r.kind = .write d) (running : s.eng.state ≠ .resetting)
    (refused : s.refusesWrite r.line = true) (behind : Bool) : s.verdict r behind = .answer .refused := by
  simp only [State.verdict, write, State.writeVerdict, if_neg running]
  rcases (refusesWrite_iff s r.line).mp refused with ring | frozen
  · rw [if_pos ring]
  · rw [if_pos frozen, ite_self]

/-- A write that is not refused goes to the watch unit or is decided by the mode of its line (R50, R57). -/
theorem verdict_write {s : State} {r : Request} {d : Line} (write : r.kind = .write d) (running : s.eng.state ≠ .resetting)
    (passed : s.refusesWrite r.line = false) (behind : Bool) : s.verdict r behind =
      if s.isWatched r then s.watchVerdict r
      else if s.mode r.line = .journaled then s.journaledVerdict r behind else .forward := by
  have notRefused := Bool.eq_false_iff.mp passed
  rw [Ne, refusesWrite_iff, not_or] at notRefused
  simp only [State.verdict, write, State.writeVerdict, if_neg running, if_neg notRefused.1, if_neg notRefused.2]

theorem verdict_watched {s : State} {r : Request} {d : Line} (write : r.kind = .write d) (running : s.eng.state ≠ .resetting)
    (passed : s.refusesWrite r.line = false) (watched : s.isWatched r = true)
    (now : s.eng.state ∉ heldStates ∨ watchKind r.mask = .malformed) (behind : Bool) : s.verdict r behind = .watch := by
  rw [verdict_write write running passed, if_pos watched, State.watchVerdict]
  cases h : s.eng.state <;> simp_all

theorem verdict_watched_held {s : State} {r : Request} {d : Line} (write : r.kind = .write d) (long : s.eng.state ∈ heldStates)
    (passed : s.refusesWrite r.line = false) (watched : s.isWatched r = true) (formed : watchKind r.mask ≠ .malformed) (behind : Bool) :
    s.verdict r behind = .hold .engine := by
  have running : s.eng.state ≠ .resetting := fun h => by simp [h] at long
  rw [verdict_write write running passed, if_pos watched, State.watchVerdict]
  rcases mem_heldStates.mp long with h | h | h | h | h
  all_goals simp only [h, if_neg formed]

theorem verdict_pass {s : State} {r : Request} {d : Line} (write : r.kind = .write d) (running : s.eng.state ≠ .resetting)
    (passed : s.refusesWrite r.line = false) (unwatched : s.isWatched r = false) (pass : s.mode r.line ≠ .journaled) (behind : Bool) :
    s.verdict r behind = .forward := by
  rw [verdict_write write running passed, if_neg (by simp [unwatched]), if_neg pass]

theorem verdict_journaled {s : State} {r : Request} {d : Line} (write : r.kind = .write d) (running : s.eng.state ≠ .resetting)
    (passed : s.refusesWrite r.line = false) (unwatched : s.isWatched r = false) (journaled : s.mode r.line = .journaled)
    (behind : Bool) : s.verdict r behind = s.journaledVerdict r behind := by
  rw [verdict_write write running passed, if_neg (by simp [unwatched]), if_pos journaled]

theorem journaledVerdict_idle {s : State} (h : s.eng.state ∈ [EngineState.off, .broken]) (r : Request) (behind : Bool) :
    s.journaledVerdict r behind = .forward := by
  simp only [List.mem_cons, List.not_mem_nil, or_false] at h
  rcases h with h | h
  all_goals simp only [State.journaledVerdict, h]

theorem journaledVerdict_long {s : State} (h : s.eng.state ∈ heldStates) (r : Request) (behind : Bool) :
    s.journaledVerdict r behind = .hold .engine := by
  rcases mem_heldStates.mp h with h | h | h | h | h
  all_goals simp only [State.journaledVerdict, h]

theorem journaledVerdict_touched {s : State} {r : Request} (h : s.eng.state ∈ [EngineState.active, .stalled])
    (touched : ∃ e ∈ s.touch.entries, e.line = r.line) (behind : Bool) : s.journaledVerdict r behind = .forward := by
  have found := lookup_present touched
  simp only [List.mem_cons, List.not_mem_nil, or_false] at h
  rcases h with h | h
  · simp only [State.journaledVerdict, h, State.journalVerdict, found, if_true]
  · simp only [State.journaledVerdict, h, found, if_true]

theorem journaledVerdict_stalled {s : State} {r : Request} (h : s.eng.state = .stalled) (absent : ∀ e ∈ s.touch.entries, e.line ≠ r.line)
    (behind : Bool) : s.journaledVerdict r behind = .hold .space := by
  simp [State.journaledVerdict, h, lookup_absent absent]

/-- A slot is wanting, or an older entry waits for one (R66, R69). -/
theorem journaledVerdict_slot {s : State} {r : Request} {behind : Bool} (h : s.eng.state = .active)
    (absent : ∀ e ∈ s.touch.entries, e.line ≠ r.line) (full : 8 ≤ s.slots.length ∨ behind = true) :
    s.journaledVerdict r behind = .hold .slot := by
  have noSlot : (!s.slotFree || behind) = true := by
    rcases full with full | rfl
    · have taken : s.slotFree = false := decide_eq_false (Nat.not_lt.mpr full)
      simp [taken]
    · exact Bool.or_true _
  simp [State.journaledVerdict, h, State.journalVerdict, lookup_absent absent, noSlot]

theorem journaledVerdict_free {s : State} {r : Request} (h : s.eng.state = .active)
    (absent : ∀ e ∈ s.touch.entries, e.line ≠ r.line) (free : s.slots.length < 8) :
    s.journaledVerdict r false = if s.hasSpace then .journal else s.fullVerdict := by
  simp [State.journaledVerdict, h, State.journalVerdict, lookup_absent absent, State.slotFree, Config.journalSlots, free]

theorem journaledVerdict_space {s : State} {r : Request} (h : s.eng.state = .active)
    (absent : ∀ e ∈ s.touch.entries, e.line ≠ r.line) (free : s.slots.length < 8)
    (space : s.ring.tail - s.ring.head < 2 ^ s.layout.order) : s.journaledVerdict r false = .journal := by
  have room : s.hasSpace = true := decide_eq_true space
  rw [journaledVerdict_free h absent free, if_pos room]

theorem journaledVerdict_full {s : State} {r : Request} (h : s.eng.state = .active)
    (absent : ∀ e ∈ s.touch.entries, e.line ≠ r.line) (free : s.slots.length < 8)
    (full : 2 ^ s.layout.order ≤ s.ring.tail - s.ring.head) : s.journaledVerdict r false = s.fullVerdict := by
  have none : s.hasSpace = false := decide_eq_false (Nat.not_lt.mpr full)
  rw [journaledVerdict_free h absent free, if_neg (by simp [none])]

end Sys2Proof.Machine
end


section
/-! SUPPORT. What a request comes to that no entry for its line precedes: forwarded, held, answered or taken on arrival (R53, R64,
R68, R69, R91, R95 to R100, R176). -/

namespace Sys2Proof.Machine

/-! ## The arriving request -/

theorem heldRequest_op (s : State) (r : UpRequest) : (s.heldRequest r).op = r.op := by
  cases write : r.op with
  | write d => simp [State.heldRequest, Request.op, write]
  | read =>
    simp only [State.heldRequest, Request.op, write]
    cases s.addressing.viewFlag r.addr <;> rfl

theorem heldRequest_write (s : State) {r : UpRequest} {d : Line} (h : r.op = .write d) : (s.heldRequest r).kind = .write d := by
  simp [State.heldRequest, h]

theorem heldRequest_read {s : State} {r : UpRequest} (h : r.op = .read) (live : s.addressing.viewFlag r.addr = false) :
    (s.heldRequest r).kind = .read := by
  simp [State.heldRequest, h, live]

theorem heldRequest_view {s : State} {r : UpRequest} (h : r.op = .read) (view : s.addressing.viewFlag r.addr = true) :
    (s.heldRequest r).kind = .viewRead := by
  simp [State.heldRequest, h, view]

/-- On arrival the watch unit has the write that names its line, while the engine is out of OFF (R57, R59). -/
theorem isWatched_heldRequest (s : State) (r : UpRequest) :
    s.isWatched (s.heldRequest r) = (decide (s.eng.state ≠ .off) && decide (s.addressing.canonical r.addr = s.layout.controlLine)) := by
  unfold State.isWatched
  split
  · rfl
  · rename_i h
    simp [h, State.heldRequest]

theorem isWatched_heldRequest_eq (s : State) (r : UpRequest) :
    ({ s.heldRequest r with watched := s.isWatched (s.heldRequest r) } : Request) = s.heldRequest r := by
  rw [isWatched_heldRequest]; rfl

/-! ## Decisions carried out on arrival -/

theorem decideArrival_enact {s : State} {r : Request} {v : Verdict}
    (h : s.verdict r (s.hold.queue.any fun e => decide (e.wait = .slot)) = v)
    (room : v.needsEntry = false ∨ s.hold.queue.length < 16) : s.decideArrival r = s.enact false r v := by
  unfold State.decideArrival
  simp only [h]
  rw [if_neg]
  rintro ⟨needs, full⟩
  rcases room with free | room
  · exact absurd needs (by simp [free])
  · exact absurd full (Nat.not_le.mpr room)

theorem decideArrival_full {s : State} {r : Request} {v : Verdict}
    (h : s.verdict r (s.hold.queue.any fun e => decide (e.wait = .slot)) = v) (needs : v.needsEntry = true)
    (full : 16 ≤ s.hold.queue.length) : s.decideArrival r = { s with hold := { s.hold with waiting := some r } } := by
  unfold State.decideArrival
  simp only [h]
  exact if_pos ⟨needs, full⟩

theorem enter_eq (s : State) (r : Request) (w : Wait) : s.enter r w = { s with
    hold := if s.hold.queue.length < 16 then { s.hold with queue := s.hold.queue ++ [{ req := r, wait := w }] }
      else { s.hold with waiting := some r } } := rfl

/-- A request that needs an entry is held on arrival, or becomes the waiting request of a full queue (R62, R64). -/
theorem decideArrival_held {s : State} {r : UpRequest} {w : Wait}
    (h : s.verdict (s.heldRequest r) (s.hold.queue.any fun e => decide (e.wait = .slot)) = .hold w) :
    s.decideArrival (s.heldRequest r) = s.enter (s.heldRequest r) w := by
  by_cases room : s.hold.queue.length < 16
  · rw [decideArrival_enact h (.inr room)]
    show s.enter _ w = _
    rw [isWatched_heldRequest_eq]
  · rw [decideArrival_full h rfl (Nat.not_lt.mp room), enter_eq, if_neg room]

/-- A request that is forwarded on arrival (R176, R178). -/
theorem forwardRequest_forwardedAs (s : State) (q : Request) {r : UpRequest} (tag : q.tag = r.tag) (op : q.op = r.op)
    (mask : q.mask = r.mask) : s.forwardRequest false q = s.forwardedAs r q.line s.issuesAtOnce := by
  rw [forwardRequest_arrival, State.forwardedAs, handed_eq, State.handForward, State.forwardOf, tag, op, mask]
  show (if s.issuesAtOnce = true then _ else _) = _
  cases s.issuesAtOnce <;> rfl

theorem finish_of_forwardedAs {s t : State} {r : UpRequest} {x : Addr} {b : Bool} (settled : s.Settled) (hold : t.hold = s.hold)
    (quiesce : t.quiesceDue = false) (running : t.eng.state ≠ .resetting) :
    (t.forwardedAs r x b).finish = t.forwardedAs r x b :=
  finish_of_same settled hold quiesce (by simp [State.resetDue, State.forwardedAs, running])

/-! ## A request from its presentation to its decision -/

/-- An aligned write to a live line that steps 4, 6 and 7 of R53 do not refuse, and any read, is decided on arrival when no entry
for its line precedes it. -/
theorem exec_request_decides {s : State} {r : UpRequest} (ready : s.upReady = true) (fresh : r.tag ∉ s.up.tags)
    (aligned : r.addr.toNat % 64 = 0) (full : r.mask ≠ 0)
    (passed : r.op = .read ∨ (s.addressing.viewFlag r.addr = false ∧ s.refusesWrite (s.addressing.canonical r.addr) = false))
    (first : ∀ e ∈ s.hold.queue, e.req.line ≠ s.addressing.canonical r.addr) :
    exec (.upstreamRequest r) s = .next ((s.withTag r).decideArrival ((s.withTag r).heldRequest r)).finish :=
  exec_request_of_first ready fresh aligned full
    (fun d write => passed.resolve_left fun read => by rw [read] at write; cases write) first

/-- A request that is entered on arrival ends the event (R62, R64). -/
theorem finish_of_enter {s : State} {r : Request} {w : Wait} (settled : s.Settled) (ready : s.hold.waiting = none)
    (running : s.eng.state ≠ .resetting) (held : w ≠ .ready) : (s.enter r w).finish = s.enter r w := by
  have reset : (s.enter r w).resetDue = false := by simp [State.resetDue, State.enter, running]
  by_cases room : s.hold.queue.length < 16
  · exact finish_of_entered (e := { req := r, wait := w }) settled ready (by rw [enter_eq, if_pos room]) held settled.quiesce reset
  · refine finish_of_settled ⟨?_, .inr ?_, settled.quiesce, reset⟩
    · have := settled.ready
      simpa [State.firstReady, enter_eq, if_neg room] using this
    · simpa [enter_eq, if_neg room, Config.holdPlaces] using room

theorem withTag_settled {s : State} {r : UpRequest} (settled : s.Settled) (ready : s.upReady = true) : (s.withTag r).Settled :=
  settled_of_same settled rfl rfl rfl (by exact (ready_of_upReady ready).2.2.1)

/-- A request that is held on arrival. -/
theorem exec_request_held {s : State} {r : UpRequest} {w : Wait} (ready : s.upReady = true) (settled : s.Settled)
    (fresh : r.tag ∉ s.up.tags) (aligned : r.addr.toNat % 64 = 0) (full : r.mask ≠ 0)
    (passed : r.op = .read ∨ (s.addressing.viewFlag r.addr = false ∧ s.refusesWrite (s.addressing.canonical r.addr) = false))
    (first : ∀ e ∈ s.hold.queue, e.req.line ≠ s.addressing.canonical r.addr) (held : w ≠ .ready)
    (h : s.verdict (s.heldRequest r) (s.hold.queue.any fun e => decide (e.wait = .slot)) = .hold w) :
    exec (.upstreamRequest r) s = .next ((s.withTag r).enter (s.heldRequest r) w) := by
  have enters : (s.withTag r).decideArrival (s.heldRequest r) = (s.withTag r).enter (s.heldRequest r) w :=
    decideArrival_held (s := s.withTag r) h
  obtain ⟨waiting, -, running, -⟩ := ready_of_upReady ready
  rw [exec_request_decides ready fresh aligned full passed first]
  refine congrArg _ (Eq.trans (congrArg State.finish enters) ?_)
  exact finish_of_enter (withTag_settled settled ready) waiting running held

/-- A request that is forwarded on arrival, with nothing else done. -/
theorem exec_request_forwarded {s : State} {r : UpRequest} (ready : s.upReady = true) (settled : s.Settled) (fresh : r.tag ∉ s.up.tags)
    (aligned : r.addr.toNat % 64 = 0) (full : r.mask ≠ 0)
    (passed : r.op = .read ∨ (s.addressing.viewFlag r.addr = false ∧ s.refusesWrite (s.addressing.canonical r.addr) = false))
    (first : ∀ e ∈ s.hold.queue, e.req.line ≠ s.addressing.canonical r.addr)
    (h : s.verdict (s.heldRequest r) (s.hold.queue.any fun e => decide (e.wait = .slot)) = .forward) :
    exec (.upstreamRequest r) s = .next ((s.withTag r).forwardedAs r (s.addressing.canonical r.addr) s.issuesAtOnce) := by
  have forwards : (s.withTag r).decideArrival (s.heldRequest r) =
      (s.withTag r).forwardedAs r (s.addressing.canonical r.addr) s.issuesAtOnce :=
    (decideArrival_enact (s := s.withTag r) h (.inl rfl)).trans
      (forwardRequest_forwardedAs (s.withTag r) (s.heldRequest r) rfl (heldRequest_op s r) rfl)
  rw [exec_request_decides ready fresh aligned full passed first]
  refine congrArg _ (Eq.trans (congrArg State.finish forwards) ?_)
  exact finish_of_forwardedAs settled rfl settled.quiesce (ready_of_upReady ready).2.2.1

/-! ## Forwarded on arrival -/

theorem forwardedAs_atOnce {s : State} {r : UpRequest} {x : Addr} (ready : s.down.ready = true) (none : s.down.toIssue = []) :
    s.forwardedAs r x s.issuesAtOnce = { s with down := { s.down with issued := s.down.issued ++ [{
      tag := r.tag.zeroExtend 7, op := r.op, addr := x, mask := r.mask, owner := .forward, event := s.eventNo }] } } := by
  simp [State.forwardedAs, DownLink.handed, State.issuesAtOnce, ready, none]

theorem forwardedAs_waiting {s : State} {r : UpRequest} {x : Addr} (h : s.down.ready = false ∨ s.down.toIssue ≠ []) :
    s.forwardedAs r x s.issuesAtOnce = { s with
      up := { s.up with pendingForward := some r.tag }
      down := { s.down with toIssue := s.down.toIssue ++ [{
        tag := r.tag.zeroExtend 7, op := r.op, addr := x, mask := r.mask, owner := .forward, event := s.eventNo }] } } := by
  have later : ¬ (s.down.ready = true ∧ s.down.toIssue = []) := fun ⟨ready, empty⟩ =>
    h.elim (fun low => by simp [ready] at low) (· empty)
  have waits : s.issuesAtOnce = false := by
    rw [State.issuesAtOnce, Bool.and_eq_false_imp]
    exact fun ready => Bool.eq_false_iff.mpr fun empty => later ⟨ready, by simpa using empty⟩
  simp [State.forwardedAs, DownLink.handed, later, waits]

/-- The writes that R68 and R69 case 1 forward. -/
theorem verdict_heldRequest_forward {s : State} {r : UpRequest} (running : s.eng.state ≠ .resetting) (write : ∃ d, r.op = .write d)
    (clear : s.eng.state = .off ∨
      (s.layout.inRing (s.addressing.canonical r.addr) = false ∧ s.addressing.canonical r.addr ≠ s.layout.controlLine))
    (row : s.mode (s.addressing.canonical r.addr) = .pass ∨
      (s.mode (s.addressing.canonical r.addr) = .journaled ∧ (s.eng.state = .off ∨ s.eng.state = .broken)) ∨
      (s.mode (s.addressing.canonical r.addr) = .journaled ∧ (s.eng.state = .active ∨ s.eng.state = .stalled) ∧
        ∃ e ∈ s.touch.entries, e.line = s.addressing.canonical r.addr)) (behind : Bool) :
    s.refusesWrite (s.addressing.canonical r.addr) = false ∧ s.verdict (s.heldRequest r) behind = .forward := by
  obtain ⟨d, write⟩ := write
  have kind := heldRequest_write s write
  have passed : s.refusesWrite (s.addressing.canonical r.addr) = false :=
    refusesWrite_of_passed (clear.imp_right And.left) (by rcases row with h | ⟨h, -⟩ | ⟨h, -⟩ <;> simp [h])
  have unwatched : s.isWatched (s.heldRequest r) = false := by
    rw [isWatched_heldRequest]
    rcases clear with off | ⟨-, other⟩
    · simp [off]
    · simp [other]
  refine ⟨passed, ?_⟩
  rcases row with pass | ⟨journaled, idle⟩ | ⟨journaled, going, touched⟩
  · exact verdict_pass kind running passed unwatched (by simp [State.heldRequest, pass]) behind
  · rw [verdict_journaled kind running passed unwatched journaled]
    exact journaledVerdict_idle (by simpa using idle) _ _
  · rw [verdict_journaled kind running passed unwatched journaled]
    exact journaledVerdict_touched (by simpa using going) touched behind

/-- Settles O37, by the verdict of each forwarded row and the two ways in which a handed request is issued. -/
theorem forwardedOnArrival : Obligations.ForwardedOnArrival := by
  intro r s ready settled _ fresh aligned full live x q first row
  have running := (ready_of_upReady ready).2.2.1
  have forwarded : exec (.upstreamRequest r) s = .next ((s.withTag r).forwardedAs r x (s.withTag r).issuesAtOnce) := by
    rcases row with ⟨read, free⟩ | ⟨write, clear, row⟩
    · exact exec_request_forwarded ready settled fresh aligned full (.inl read) first
        (verdict_read_forward (heldRequest_read read live) running free _)
    · obtain ⟨passed, forward⟩ := verdict_heldRequest_forward running write clear row _
      exact exec_request_forwarded ready settled fresh aligned full (.inr ⟨live, passed⟩) first forward
  refine ⟨fun memory none => ?_, fun later => ?_⟩
  · rw [forwarded, forwardedAs_atOnce (s := s.withTag r) memory none]; rfl
  · rw [forwarded, forwardedAs_waiting (s := s.withTag r) later]; rfl

/-! ## Held on arrival -/

/-- With a full queue the request that is entered waits outside it, and ready is withheld (R64). -/
theorem upReady_of_full {s : State} {r : Request} {w : Wait} (full : 16 ≤ s.hold.queue.length) : (s.enter r w).upReady = false := by
  simp [State.upReady, enter_eq, if_neg (Nat.not_lt.mpr full)]

/-- Settles O40, by the verdict of each held row. -/
theorem journaledRequestHeld : Obligations.JournaledRequestHeld := by
  intro r s ready settled fresh aligned full live x held journaled first
  have running := (ready_of_upReady ready).2.2.1
  have entered {w : Wait} (passed : r.op = .read ∨ (s.addressing.viewFlag r.addr = false ∧ s.refusesWrite x = false))
      (wait : w ≠ .ready) (h : s.verdict (s.heldRequest r) (s.hold.queue.any fun e => decide (e.wait = .slot)) = .hold w) : held w :=
    ⟨_, exec_request_held ready settled fresh aligned full passed first wait h, rfl, fun full => upReady_of_full full⟩
  refine ⟨fun read rolling => entered (.inl read) (by simp) (verdict_read_held (heldRequest_read read live) rolling journaled _),
    fun ⟨d, write⟩ outside other => ?_⟩
  have passed : s.refusesWrite x = false := refusesWrite_of_passed (.inr outside) (by simp [journaled])
  have unwatched : s.isWatched (s.heldRequest r) = false := by
    rw [isWatched_heldRequest, decide_eq_false (p := _ = s.layout.controlLine) other, Bool.and_false]
  have row {w : Wait} (wait : w ≠ .ready)
      (h : s.journaledVerdict (s.heldRequest r) (s.hold.queue.any fun e => decide (e.wait = .slot)) = .hold w) : held w :=
    entered (.inr ⟨live, passed⟩) wait
      ((verdict_journaled (heldRequest_write s write) running passed unwatched journaled _).trans h)
  refine ⟨fun long => row (by simp) (journaledVerdict_long long _ _),
    fun stalled absent => row (by simp) (journaledVerdict_stalled stalled absent _),
    fun active absent slots => row (by simp) (journaledVerdict_slot active absent (slots.imp_right ?_))⟩
  exact fun ⟨e, he, slot⟩ => List.any_eq_true.mpr ⟨e, he, decide_eq_true slot⟩

/-! ## View reads on arrival -/

/-- A request whose arrival changes neither the hold queue nor the engine nor the slots. -/
theorem exec_request_enacted {s t : State} {r : UpRequest} {v : Verdict} (ready : s.upReady = true) (settled : s.Settled)
    (fresh : r.tag ∉ s.up.tags) (aligned : r.addr.toNat % 64 = 0) (full : r.mask ≠ 0)
    (passed : r.op = .read ∨ (s.addressing.viewFlag r.addr = false ∧ s.refusesWrite (s.addressing.canonical r.addr) = false))
    (first : ∀ e ∈ s.hold.queue, e.req.line ≠ s.addressing.canonical r.addr)
    (h : s.verdict (s.heldRequest r) (s.hold.queue.any fun e => decide (e.wait = .slot)) = v) (entry : v.needsEntry = false)
    (enacted : (s.withTag r).enact false (s.heldRequest r) v = t) (hold : t.hold = s.hold) (eng : t.eng = s.eng)
    (slots : t.slots = s.slots) : exec (.upstreamRequest r) s = .next t := by
  have decided : (s.withTag r).decideArrival (s.heldRequest r) = t :=
    (decideArrival_enact (s := s.withTag r) h (.inl entry)).trans enacted
  have running := (ready_of_upReady ready).2.2.1
  rw [exec_request_decides ready fresh aligned full passed first]
  refine congrArg _ (Eq.trans (congrArg State.finish decided) ?_)
  exact finish_of_settled (settled_of_same settled hold eng slots (by rwa [eng]))

/-- What the view reader reads for a view read, and the mask of the read (R98 to R100). -/
def State.viewAddr (s : State) (r : Request) : ViewSource → Addr
  | .slot q => s.layout.dataAddr q
  | .live => r.line

/-- The mask of the read that serves a view read (R99, R100). -/
def Request.viewMask (r : Request) : ViewSource → Mask
  | .slot _ => fullMask
  | .live => r.mask

theorem takeView_eq (s : State) (queued : Bool) (r : Request) (src : ViewSource) : s.takeView queued r src =
    let u : State := { s with
      views := s.views ++ [{ tag := r.tag, mask := r.mask, source := src, internalTag := s.down.freeTag }]
      down := s.down.handed [{
        tag := s.down.freeTag, op := .read, addr := s.viewAddr r src, mask := r.viewMask src, owner := .view, event := s.eventNo }] }
    if queued then u.leave r else u := by
  rw [handed_eq]
  cases src <;> rfl

/-- Settles O42, by the rows of R96 to R98. -/
theorem viewReads : Obligations.ViewReads := by
  intro r s ready settled fresh aligned full read view x u lost held taken first
  have running := (ready_of_upReady ready).2.2.1
  have kind := heldRequest_view read view
  have entered {w : Wait} (wait : w ≠ .ready)
      (h : s.verdict (s.heldRequest r) (s.hold.queue.any fun e => decide (e.wait = .slot)) = .hold w) : held w :=
    exec_request_held ready settled fresh aligned full (.inl read) first wait h
  have answered (h : s.verdict (s.heldRequest r) (s.hold.queue.any fun e => decide (e.wait = .slot)) = .answer .viewLost) :
      exec (.upstreamRequest r) s = .next (u.answer r.tag .viewLost none) :=
    exec_request_enacted ready settled fresh aligned full (.inl read) first h rfl rfl rfl rfl rfl
  have takes {src : ViewSource}
      (h : s.verdict (s.heldRequest r) (s.hold.queue.any fun e => decide (e.wait = .slot)) = .view src) :
      taken src (s.viewAddr (s.heldRequest r) src) ((s.heldRequest r).viewMask src) :=
    exec_request_enacted ready settled fresh aligned full (.inl read) first h rfl
      (takeView_eq (s.withTag r) false (s.heldRequest r) src) rfl rfl rfl
  refine ⟨fun gone => answered (verdict_view_lost kind running gone _),
    fun rolling => entered (by simp) (verdict_view_rolling kind rolling _),
    fun kept rolling places => entered (by simp) (verdict_view_full kind running kept rolling places _),
    fun kept rolling room => ?_⟩
  have source := verdict_view_source kind running kept rolling room (s.hold.queue.any fun e => decide (e.wait = .slot))
  exact ⟨fun pass => takes (source.trans (viewSource_unjournaled pass)),
    fun q journaled found => takes (source.trans (viewSource_slot journaled found)),
    fun _ absent exact => takes (source.trans (viewSource_live absent exact)),
    fun journaled absent saturated => answered (source.trans (viewSource_lost journaled absent saturated))⟩

end Sys2Proof.Machine
end


section
/-! SUPPORT. Entry into BROKEN, item by item, as R85 and R86 have it. -/

namespace Sys2Proof.Machine

/-- A status write is requested without a waiting occasion: it is noted while one is outstanding, and issued otherwise (R108, R110). -/
theorem requestStatus_watch (s : State) : (s.requestStatus false).watch =
    if s.watch.outstanding then { s.watch with updatePending := true } else { s.watch with outstanding := true } := by
  cases h : s.watch.outstanding
  · rw [requestStatus_of_free h]; rfl
  · rw [requestStatus_of_outstanding h]; rfl

theorem requestStatus_handed (s : State) : (s.requestStatus false).down =
    if s.watch.outstanding then s.down else s.down.handed [{
      tag := s.down.freeTag, op := .write s.statusLine, addr := s.layout.controlLine, mask := statusMask, owner := .status
      event := s.eventNo }] := by
  cases h : s.watch.outstanding
  · rw [requestStatus_of_free h, handed_eq]; rfl
  · rw [requestStatus_of_outstanding h]; rfl

/-- The record of the BROKEN event that `raiseBroken` appends (R86, R111). -/
theorem raiseBroken_port (s : State) (c : Cause) : (s.raiseBroken c).port = s.port.append (s.brokenRecord s.eng.state c) := by
  cases c <;> rfl

/-- The items of R86 that hold of any state that breaks the journal, raises the BROKEN event of an engine state and requests the
status write. -/
theorem journalBroken_of {s u : State} {c : Cause} {state : EngineState} (ring : u.ring = s.ring) (segments : u.segments = s.segments)
    (touch : u.touch = Touch.empty) (slots : u.slots = abandonSlots s.slots) (stall : u.stall = none)
    (waiting : u.hold.waiting = s.hold.waiting)
    (watch : u.watch = if s.watch.outstanding then { s.watch with updatePending := true } else { s.watch with outstanding := true })
    (port : u.port = s.port.append (s.brokenRecord state c))
    (rest : u.timer = s.timer ∧ u.views = s.views ∧ u.replay = s.replay ∧ u.scan = s.scan ∧ u.up = s.up ∧ u.layout = s.layout ∧
      u.addressing = s.addressing ∧ u.regions = s.regions ∧ u.aborted = s.aborted ∧ u.rstn = s.rstn ∧ u.eventNo = s.eventNo ∧
      u.pending = s.pending) : s.JournalBroken u c state where
  ring := ring
  segments := segments
  touch := touch
  slots j := by rw [slots, mem_abandonSlots]
  stall := stall
  waiting := waiting
  watch := watch
  events enabled room := by rw [port, append_queued (by exact enabled) room]
  masked disabled := by rw [port, append_masked (by exact disabled)]
  port := by rw [port]; exact ⟨rfl, rfl⟩
  rest := rest

/-- Entry into BROKEN is what R85 and R86 make of a state. -/
theorem enterBroken_brokenFrom (s : State) (c : Cause) : s.BrokenFrom (s.enterBroken c) c where
  eng := by simp [State.enterBroken, State.breakJournal]
  journal := by
    refine journalBroken_of ?_ ?_ ?_ ?_ (enterBroken_stall s c) ?_ (requestStatus_watch (s.brokenBefore c)) ?_ ?_
    case refine_6 => rw [enterBroken_port]; cases c <;> rfl
    all_goals simp [State.enterBroken, State.breakJournal]
  queue := (congrArg Hold.queue (enterBroken_hold s c)).trans (wakeEntries_clearedByBroken s.hold.queue)
  down := by
    have line : (s.enterBroken c).statusLine = (s.brokenBefore c).statusLine :=
      statusLine_congr (by simp [State.enterBroken, State.brokenBefore]) (by simp [State.enterBroken, State.brokenBefore])
        (by simp [State.enterBroken, State.brokenBefore]) (by simp [State.enterBroken, State.brokenBefore])
    rw [(enterBroken_link s c).2, requestStatus_handed, line]
    rfl

/-- What one event hands leaves open whether the event issues at once (R177). -/
theorem issuesAtOnce_of_handed {s t : State} {l : List DownRequest} (h : t.down = s.down.handed l) : t.issuesAtOnce = s.issuesAtOnce := by
  show t.down.takesAtOnce = s.down.takesAtOnce
  rw [h, handed_eq, hand_takesAtOnce]

theorem enterBroken_issuesAtOnce (s : State) (c : Cause) : (s.enterBroken c).issuesAtOnce = s.issuesAtOnce := by
  have down := (enterBroken_brokenFrom s c).down
  cases h : s.watch.outstanding <;> rw [h] at down
  · exact issuesAtOnce_of_handed down
  · exact (congrArg DownLink.takesAtOnce down :)

/-- With nothing held, entry into BROKEN makes no entry decidable. -/
theorem enterBroken_hold_empty {s : State} (empty : s.hold = { queue := [], waiting := none }) (c : Cause) :
    (s.enterBroken c).hold = { queue := [], waiting := none } := by
  rw [enterBroken_hold, empty]; rfl

end Sys2Proof.Machine
end


section
/-! SUPPORT. A write to an absent line in ACTIVE: a journal operation starts, or the ring is full (R40, R64, R69, R72, R79 to R86). -/

namespace Sys2Proof.Machine

/-! ## The start of a journal operation -/

/-- The events of a journal operation's start, RING_HIGH ahead of SATURATED (R18, R40; log 18). -/
def State.startEvents (s : State) : List EventRecord :=
  (if s.risesHigh = true ∧ s.ring.highArmed = true then [{
    kind := .ringHigh, state := s.eng.state, seq := some (s.ring.tail + 1), detail := some (s.ring.tail + 1 - s.ring.head)
    count := none }] else [])
  ++ (if s.touch.fills = true then [{
    kind := .saturated, state := s.eng.state, seq := some s.ring.tail, detail := none, count := some 8192 }] else [])

theorem fills_eq (t : Touch) : t.fills = (!t.saturated && decide (8192 ≤ t.entries.length)) := rfl

/-- What the start of a journal operation does, item by item (R40, R71, R72). -/
theorem startOperation_eq (s : State) (r : Request) : s.startOperation r = { s with
    ring := { s.ring with tail := s.ring.tail + 1, highArmed := !s.risesHigh }
    slots := s.slots ++ [changeSlot (s.changeHeader r.line) r.tag]
    touch := s.touch.insert r.line s.ring.tail
    port := s.startEvents.foldl Port.append s.port
    down := s.down.handed [{
      tag := s.down.freeTag, op := .read, addr := r.line, mask := fullMask, owner := .oldData s.ring.tail
      event := s.eventNo }] } := by
  have assigned : s.assign (changeSlot (s.changeHeader r.line) r.tag) = { s with
      slots := s.slots ++ [changeSlot (s.changeHeader r.line) r.tag]
      ring := { s.ring with tail := s.ring.tail + 1, highArmed := !s.risesHigh }
      port := if s.risesHigh && s.ring.highArmed then s.port.append {
          kind := .ringHigh, state := s.eng.state, seq := some (s.ring.tail + 1), detail := some (s.ring.tail + 1 - s.ring.head)
          count := none }
        else s.port } := rfl
  have seq : (s.changeHeader r.line).seq = s.ring.tail := rfl
  rw [handed_eq, State.startOperation, assigned]
  cases high : s.risesHigh <;> cases armed : s.ring.highArmed <;> cases fills : s.touch.fills
  all_goals simp [State.touchInsert, State.startEvents, high, armed, fills, State.handOwn, State.hand, State.raise, Config.touchPlaces,
    seq]

/-- Where no event is masked and both have room, the events of the start are queued (R190). -/
theorem startEvents_queued {s : State} (mask : s.port.mask = 0xFFFF) (room : s.port.events.length < 31) :
    s.startEvents.foldl Port.append s.port = { s.port with events := s.port.events ++ s.startEvents } := by
  refine foldl_append _ (fun e he => enables_of_full mask _) ?_
  have two : s.startEvents.length ≤ 2 := by
    unfold State.startEvents
    split <;> split <;> simp
  simp only [Config.eventPlaces]
  omega

/-! ## Writes to an absent line in ACTIVE -/

/-- The hypotheses of a write that R69 takes to its case 3 or 4: it arrives in ACTIVE for an absent JOURNALED line, with a slot free
and no older entry held SLOT. -/
structure MeetsAbsent (s : State) (r : UpRequest) (d : Line) : Prop where
  ready : s.upReady = true
  settled : s.Settled
  fresh : r.tag ∉ s.up.tags
  aligned : r.addr.toNat % 64 = 0
  full : r.mask ≠ 0
  write : r.op = .write d
  live : s.addressing.viewFlag r.addr = false
  active : s.eng.state = .active
  outside : s.layout.inRing (s.addressing.canonical r.addr) = false
  other : s.addressing.canonical r.addr ≠ s.layout.controlLine
  journaled : s.mode (s.addressing.canonical r.addr) = .journaled
  first : ∀ e ∈ s.hold.queue, e.req.line ≠ s.addressing.canonical r.addr ∧ e.wait ≠ .slot
  absent : ∀ e ∈ s.touch.entries, e.line ≠ s.addressing.canonical r.addr
  free : s.slots.length < 8

theorem MeetsAbsent.verdict {s : State} {r : UpRequest} {d : Line} (h : MeetsAbsent s r d) :
    s.verdict (s.heldRequest r) (s.hold.queue.any fun e => decide (e.wait = .slot)) = s.journaledVerdict (s.heldRequest r) false := by
  have passed : s.refusesWrite (s.addressing.canonical r.addr) = false := refusesWrite_of_passed (.inr h.outside) (by simp [h.journaled])
  have unwatched : s.isWatched (s.heldRequest r) = false := by
    rw [isWatched_heldRequest, decide_eq_false h.other, Bool.and_false]
  have ahead : (s.hold.queue.any fun e => decide (e.wait = .slot)) = false := by
    simpa using fun e he => (h.first e he).2
  rw [ahead, verdict_journaled (heldRequest_write s h.write) (by simp [h.active]) passed unwatched h.journaled]

theorem MeetsAbsent.exec_decided {s t : State} {r : UpRequest} {d : Line} (h : MeetsAbsent s r d)
    (decided : (s.withTag r).decideArrival (s.heldRequest r) = t) : exec (.upstreamRequest r) s = .next t.finish := by
  have passed : s.refusesWrite (s.addressing.canonical r.addr) = false := refusesWrite_of_passed (.inr h.outside) (by simp [h.journaled])
  rw [exec_request_decides h.ready h.fresh h.aligned h.full (.inr ⟨h.live, passed⟩) fun e he => (h.first e he).1]
  exact congrArg (fun u => Host.Outcome.next (State.finish u)) decided

/-- With a full queue the write waits and nothing is done (R64). -/
theorem MeetsAbsent.exec_full {s : State} {r : UpRequest} {d : Line} (h : MeetsAbsent s r d) {v : Verdict}
    (verdict : s.journaledVerdict (s.heldRequest r) false = v) (needs : v.needsEntry = true) (full : 16 ≤ s.hold.queue.length) :
    exec (.upstreamRequest r) s = .next { s with
      eventNo := s.eventNo + 1
      up := { s.up with tags := s.up.tags ++ [r.tag] }
      hold := { s.hold with waiting := some (s.heldRequest r) } } := by
  have waits := decideArrival_full (s := s.withTag r) (h.verdict.trans verdict) needs full
  rw [h.exec_decided waits]
  refine congrArg _ (finish_of_settled ⟨?_, .inr full, h.settled.quiesce, by simp [State.resetDue, State.withTag, h.active]⟩)
  exact h.settled.ready

/-- With room in the queue the write is entered, whatever the engine and the journal become meanwhile. -/
theorem MeetsAbsent.exec_entered {s t : State} {r : UpRequest} {d : Line} (h : MeetsAbsent s r d) {v : Verdict}
    (verdict : s.journaledVerdict (s.heldRequest r) false = v) (room : s.hold.queue.length < 16)
    (enacted : (s.withTag r).enact false (s.heldRequest r) v = t) {e : Entry}
    (hold : t.hold = { s.hold with queue := s.hold.queue ++ [e] }) (wait : e.wait ≠ .ready) (quiescing : t.eng.state ≠ .quiescing)
    (resetting : t.eng.state ≠ .resetting) : exec (.upstreamRequest r) s = .next t := by
  have decided : (s.withTag r).decideArrival (s.heldRequest r) = t :=
    (decideArrival_enact (s := s.withTag r) (h.verdict.trans verdict) (.inr room)).trans enacted
  obtain ⟨quiesce, reset⟩ := nothingDue_of_state quiescing resetting
  rw [h.exec_decided decided, finish_of_entered h.settled (ready_of_upReady h.ready).1 hold wait quiesce reset]

/-- The entry that a journal operation's start makes (R72). -/
theorem enact_journal (u : State) (q : Request) (watched : u.isWatched q = q.watched) :
    u.enact false q .journal = (u.startOperation q).enter q (.record u.ring.tail) := by
  have same : (u.startOperation q).isWatched q = q.watched := by rw [startOperation_eq]; exact watched
  show (u.startOperation q).enter { q with watched := (u.startOperation q).isWatched q } _ = _
  rw [same]

/-- Settles O39, from the equation of a journal operation's start. -/
theorem journalOperationStarts : Obligations.JournalOperationStarts := by
  intro r d s ready settled fresh aligned full write live active x saturates h occupancy high outside other journaled first absent
    free space
  have meets : MeetsAbsent s r d :=
    ⟨ready, settled, fresh, aligned, full, write, live, active, outside, other, journaled, first, absent, free⟩
  have verdict := journaledVerdict_space (r := s.heldRequest r) active absent free space
  refine ⟨fun queue => meets.exec_full verdict rfl queue, fun room => ?_⟩
  have started := enact_journal (s.withTag r) (s.heldRequest r) (isWatched_heldRequest s r)
  rw [startOperation_eq, enter_eq, if_pos (by exact room)] at started
  refine ⟨_, meets.exec_entered verdict room started rfl (by simp) (by simp [State.withTag, active]) (by simp [State.withTag, active]),
    rfl, ?slots, rfl, ?touch, rfl, fun mask few => ?events, rfl, rfl, rfl, rfl, rfl, rfl, rfl, rfl, rfl⟩
  case slots =>
    have dup : (s.touch.saturated || s.touch.fills) = (s.touch.saturated || saturates) := by
      rw [fills_eq]
      cases s.touch.saturated <;> rfl
    show s.slots ++ [changeSlot { s.changeHeader x with dup := s.touch.saturated || s.touch.fills } r.tag] = _
    rw [dup]
    rfl
  case touch =>
    show s.touch.insert x s.ring.tail = _
    rw [Touch.insert]
    refine ite_congr rfl (fun _ => rfl) fun _ => ?_
    by_cases room : s.touch.entries.length < 8192
    · rw [if_pos (by exact room), if_neg (show ¬ saturates = true by simp [saturates, room])]
    · rw [if_neg (by exact room), if_pos (show saturates = true by simp [saturates, Nat.not_lt.mp room])]
  case events =>
    show (s.withTag r).startEvents.foldl Port.append s.port = _
    refine (startEvents_queued (s := s.withTag r) mask few).trans ?_
    have fills : s.touch.fills = true ↔ s.touch.saturated = false ∧ saturates = true := by
      rw [fills_eq, Bool.and_eq_true, Bool.not_eq_true']
    have events : (s.withTag r).startEvents = s.startEvents := rfl
    rw [events, State.startEvents, active]
    simp only [fills, List.append_assoc]
    rfl

/-! ## A full ring -/

/-- A full ring is reported once a full period (R83). -/
theorem reportFull_eq (s : State) (q : Request) : s.reportFull q = if s.ring.fullReported then s else
    { s.raise .ringFull (some s.ring.tail) (some q.tag.toNat) (some (2 ^ s.layout.order)) with
      ring := { s.ring with fullReported := true } } := rfl

/-- Settles O41, by the three policies of R79. -/
theorem ringFullPolicies : Obligations.RingFullPolicies := by
  intro r d s ready settled _ fresh aligned full write live active x u ringFull outside other journaled first absent free used
  have meets : MeetsAbsent s r d :=
    ⟨ready, settled, fresh, aligned, full, write, live, active, outside, other, journaled, first, absent, free⟩
  have verdict := journaledVerdict_full (r := s.heldRequest r) active absent free used
  have decides {v : Verdict} (policy : s.fullVerdict = v) (entry : v.needsEntry = false) :
      u.decideArrival (s.heldRequest r) = u.enact false (s.heldRequest r) v :=
    decideArrival_enact (s := s.withTag r) (meets.verdict.trans (verdict.trans policy)) (.inl entry)
  refine ⟨fun stall room => ?stall, fun stall queue => ?waits, fun refuse => ?refuse, fun breaks sound => ?breaks⟩
  case stall =>
    have policy : s.fullVerdict = .stallRing := by simp only [State.fullVerdict, stall]
    have entered : u.holdRequest false (s.heldRequest r) .space = u.enter (s.heldRequest r) .space :=
      congrArg (u.enter · .space) (isWatched_heldRequest_eq s r)
    refine meets.exec_entered (verdict.trans policy) room ?_ (e := { req := s.heldRequest r, wait := .space }) rfl (by simp)
      (by simp [ringFull, State.raise]) (by simp [ringFull, State.raise])
    show State.raiseRingFull (State.enterStalled (u.holdRequest false (s.heldRequest r) .space)) _ = _
    rw [entered, enter_eq, if_pos (by exact room)]
    rfl
  case waits =>
    have policy : s.fullVerdict = .stallRing := by simp only [State.fullVerdict, stall]
    exact meets.exec_full (verdict.trans policy) rfl queue
  case refuse =>
    have policy : s.fullVerdict = .refuseFull := by simp only [State.fullVerdict, refuse]
    rw [meets.exec_decided (decides policy rfl)]
    have reported : u.enact false (s.heldRequest r) .refuseFull = State.answer
        (if s.ring.fullReported then u else { ringFull u with ring := { s.ring with fullReported := true } }) r.tag .ringFull none :=
      congrArg (State.answer · r.tag .ringFull none) (reportFull_eq u (s.heldRequest r))
    rw [reported]
    refine congrArg _ (finish_of_settled ?_)
    split
    · exact settled_of_same settled rfl rfl rfl (by simp [State.answer, u, active])
    · exact settled_of_same settled rfl rfl rfl (by simp [State.answer, ringFull, u, active])
  case breaks =>
    have policy : s.fullVerdict = .breakFull := by simp only [State.fullVerdict, breaks]
    have broken := enterBroken_brokenFrom u .ringFullBreak
    have ready' : (u.enterBroken .ringFullBreak).issuesAtOnce = s.issuesAtOnce := enterBroken_issuesAtOnce u _
    have forwards : u.enact false (s.heldRequest r) .breakFull =
        (u.enterBroken .ringFullBreak).forwardedAs r x s.issuesAtOnce := by
      rw [← ready']
      exact forwardRequest_forwardedAs _ _ rfl (heldRequest_op s r) rfl
    refine ⟨u.enterBroken .ringFullBreak, broken, meets.exec_decided ((decides policy rfl).trans forwards), fun empty => ?_⟩
    exact finish_of_empty (enterBroken_hold_empty (s := u) empty .ringFullBreak) (by simp [State.forwardedAs]) (by simp [State.forwardedAs])

end Sys2Proof.Machine
end


section
/-! SUPPORT. The watched writes: the kind a mask gives, the release of records, and a watched write on arrival (R26, R81, R113,
R114, R116, R118). -/

namespace Sys2Proof.Machine

/-! ## The kind of a watched write -/

/-- The mask of a release: bytes 0 to 15 (R113). -/
abbrev ReleaseMask (m : Mask) : Prop := ∀ j, j < 64 → m.getLsbD j = decide (j < 16)

/-- The mask of a mark: bytes 16 to 23 (R113). -/
abbrev MarkMask (m : Mask) : Prop := ∀ j, j < 64 → m.getLsbD j = (decide (16 ≤ j) && decide (j < 24))

theorem getLsbD_releaseRange : ReleaseMask (maskRange 0 16) := by decide

theorem getLsbD_markRange : MarkMask (maskRange 16 8) := by decide

theorem releaseMask_iff (m : Mask) : ReleaseMask m ↔ m = maskRange 0 16 :=
  ⟨fun h => BitVec.eq_of_getLsbD_eq fun j hj => (h j hj).trans (getLsbD_releaseRange j hj).symm, fun h => h ▸ getLsbD_releaseRange⟩

theorem markMask_iff (m : Mask) : MarkMask m ↔ m = maskRange 16 8 :=
  ⟨fun h => BitVec.eq_of_getLsbD_eq fun j hj => (h j hj).trans (getLsbD_markRange j hj).symm, fun h => h ▸ getLsbD_markRange⟩

theorem watchKind_release {m : Mask} (h : ReleaseMask m) : watchKind m = .release := if_pos ((releaseMask_iff m).mp h)

theorem watchKind_mark {m : Mask} (h : MarkMask m) : watchKind m = .mark := by
  rw [(markMask_iff m).mp h]; decide

theorem watchKind_malformed {m : Mask} (release : ¬ ReleaseMask m) (mark : ¬ MarkMask m) : watchKind m = .malformed := by
  rw [releaseMask_iff] at release
  rw [markMask_iff] at mark
  rw [watchKind, if_neg release, if_neg mark]

theorem ReleaseMask.ne_zero {m : Mask} (h : ReleaseMask m) : m ≠ 0 := by
  rw [(releaseMask_iff m).mp h]; decide

theorem MarkMask.ne_zero {m : Mask} (h : MarkMask m) : m ≠ 0 := by
  rw [(markMask_iff m).mp h]; decide

theorem flagsBelow_eq (m : Mask) (n : Nat) : flagsBelow m n = (List.range n).countP fun j => m.getLsbD j := by
  induction n with
  | zero => rfl
  | succ n ih =>
    rw [flagsBelow, ih, List.range_succ, List.countP_append]
    cases h : m.getLsbD n <;> simp [-BitVec.getLsbD_eq_getElem, h]

theorem flagCount_eq (m : Mask) : flagCount m = (List.range 64).countP fun j => m.getLsbD j := flagsBelow_eq m 64

theorem lineField_lt (l : Line) (offset bytes : Nat) : lineField l offset bytes < 2 ^ (8 * bytes) := BitVec.isLt _

theorem toNat_lineField_four (l : Line) (offset : Nat) : (BitVec.ofNat 32 (lineField l offset 4)).toNat = lineField l offset 4 := by
  rw [BitVec.toNat_ofNat]
  exact Nat.mod_eq_of_lt (lineField_lt l offset 4)

theorem heldRequest_data (s : State) {r : UpRequest} {d : Line} (h : r.op = .write d) : (s.heldRequest r).data = d := by
  simp [Request.data, heldRequest_write s h]

/-! ## The release of records -/

/-- A release that makes ring space in STALLED returns the engine to ACTIVE (R81). -/
def State.returnsTo (s : State) (head : Nat) : Prop :=
  s.eng.state = .stalled ∧ s.ring.head < head ∧ s.ring.tail - head < 2 ^ s.layout.order

/-- What the table of R116 makes of the ring, the segment list and the engine when H is to be `head`. -/
structure Released (s t : State) (head : Nat) : Prop where
  raised : t.ring.head = head
  frontier : t.ring.frontier = s.ring.frontier
  tail : t.ring.tail = s.ring.tail
  same : head = s.ring.head → t.segments = s.segments ∧ t.ring = s.ring
  risen : s.ring.head < head → t.segments = s.segments.filter (fun q => head ≤ q.seq) ∧ t.ring.fullReported = false ∧
    t.ring.highArmed = (s.ring.highArmed || decide (s.ring.tail - head < s.layout.highWater * 2 ^ s.layout.order / 8))
  returns : s.returnsTo head → t.eng = { s.eng with state := .active } ∧ t.stall = none ∧
    t.hold = { s.hold with queue := decidableNow [.engine, .slot, .space] s.hold.queue }
  stays : ¬ s.returnsTo head → t.eng = s.eng ∧ t.stall = s.stall ∧ t.hold = s.hold

theorem released_self (s : State) : Released s s s.ring.head where
  raised := rfl
  frontier := rfl
  tail := rfl
  same _ := ⟨rfl, rfl⟩
  risen h := absurd h (Nat.lt_irrefl _)
  returns h := absurd h.2.1 (Nat.lt_irrefl _)
  stays _ := ⟨rfl, rfl, rfl⟩

theorem Released.raise {s t : State} {head : Nat} (h : Released s t head) (k : EventKind) (q d n : Option Nat) :
    Released s (t.raise k q d n) head where
  raised := h.raised
  frontier := h.frontier
  tail := h.tail
  same := h.same
  risen := h.risen
  returns := h.returns
  stays := h.stays

/-- The state in which H has risen, before the stall is tested (R26, R83, R116). -/
def State.headRaised (s : State) (head : Nat) : State := { s with
  ring := { s.ring with
    head := head, fullReported := false
    highArmed := s.ring.highArmed || decide (s.ring.tail - head < s.layout.highWater * 2 ^ s.layout.order / 8) }
  segments := s.segments.filter fun q => decide (head ≤ q.seq) }

theorem raiseHead_eq (s : State) {head : Nat} (above : s.ring.head < head) [Decidable (s.returnsTo head)] : s.raiseHead head =
    if s.returnsTo head then State.enterActive { s.headRaised head with stall := none } else s.headRaised head := by
  have raised : State.armIfBelow { s with
      ring := { s.ring with head := head, fullReported := false }
      segments := s.segments.filter fun e => decide (head ≤ e.seq) } = s.headRaised head := by
    simp only [State.armIfBelow, not_isHigh]
    rfl
  have test : (s.headRaised head).eng.state = .stalled ∧ (s.headRaised head).hasSpace = true ↔ s.returnsTo head :=
    ⟨fun ⟨stalled, space⟩ => ⟨stalled, above, of_decide_eq_true space⟩, fun ⟨stalled, _, space⟩ => ⟨stalled, decide_eq_true space⟩⟩
  rw [State.raiseHead, raised]
  by_cases returns : s.returnsTo head
  · rw [if_pos returns]; exact if_pos (test.mpr returns)
  · rw [if_neg returns]; exact if_neg (mt test.mp returns)

theorem released_raiseHead {s : State} {head : Nat} (above : s.ring.head < head) : Released s (s.raiseHead head) head := by
  classical
  rw [raiseHead_eq s above]
  split
  · rename_i returns
    exact ⟨rfl, rfl, rfl, fun h => absurd h (Nat.ne_of_gt above), fun _ => ⟨rfl, rfl, rfl⟩,
      fun _ => ⟨rfl, rfl, enterActive_hold _⟩, fun stays => absurd returns stays⟩
  · rename_i stays
    exact ⟨rfl, rfl, rfl, fun h => absurd h (Nat.ne_of_gt above), fun _ => ⟨rfl, rfl, rfl⟩, fun returns => absurd returns stays,
      fun _ => ⟨rfl, rfl, rfl⟩⟩

/-- Where a release moves H to (R116). -/
def State.releasedHead (s : State) (v e : Nat) : Nat :=
  if e ≠ s.eng.epoch.toNat ∨ v ≤ s.ring.head then s.ring.head else max s.ring.head (min v s.releaseLimit)

theorem epoch_ne_iff (s : State) (d : Line) (offset : Nat) :
    BitVec.ofNat 32 (lineField d offset 4) ≠ s.eng.epoch ↔ lineField d offset 4 ≠ s.eng.epoch.toNat := by
  rw [Ne, ← BitVec.toNat_inj, toNat_lineField_four]

/-- The event of a release out of OFF, with the state that the release leaves (R116; log 40). -/
def State.releaseEvents (s : State) (v : Nat) (e : Epoch) : List EventRecord :=
  if e ≠ s.eng.epoch then
    [{ kind := .releaseStale, state := (s.release v e).eng.state, seq := some v, detail := some e.toNat, count := none }]
  else if s.ring.head < v ∧ s.releaseLimit < v then
    [{ kind := .releaseClamped, state := (s.release v e).eng.state, seq := some v, detail := none, count := none }]
  else []

theorem releaseEvents_length_le (s : State) (v : Nat) (e : Epoch) : (s.releaseEvents v e).length ≤ 1 := by
  unfold State.releaseEvents
  split
  · exact Nat.le_refl 1
  · split <;> simp

/-- The table of R116 out of OFF: the ring, the segment list, the engine, and the event with the state that the release leaves. -/
theorem release_released {s : State} (out : s.eng.state ≠ .off) (v : Nat) (e : Epoch) :
    Released s (s.release v e) (s.releasedHead v e.toNat) ∧ (s.release v e).port =
      (s.releaseEvents v e).foldl Port.append s.port := by
  have epochs : e ≠ s.eng.epoch ↔ e.toNat ≠ s.eng.epoch.toNat := by rw [Ne, Ne, BitVec.toNat_inj]
  rw [State.releaseEvents]
  by_cases stale : e ≠ s.eng.epoch
  · have eq : s.release v e = s.raise .releaseStale (some v) (some e.toNat) none := if_pos (.inr stale)
    rw [eq, State.releasedHead, if_pos (.inl (epochs.mp stale)), if_pos stale]
    exact ⟨(released_self s).raise .., rfl⟩
  by_cases low : v ≤ s.ring.head
  · have eq : s.release v e = s := by rw [State.release, if_neg (by simp [out, stale]), if_pos low]
    rw [eq, State.releasedHead, if_pos (.inr low), if_neg stale, if_neg (fun h => absurd h.1 (Nat.not_lt.mpr low))]
    exact ⟨released_self s, rfl⟩
  have head : s.releasedHead v e.toNat = max s.ring.head (min v s.releaseLimit) := by
    rw [State.releasedHead, if_neg]
    exact fun h => h.elim (fun h => stale (epochs.mpr h)) low
  by_cases within : v ≤ s.releaseLimit
  · have eq : s.release v e = s.raiseHead v := by
      rw [State.release, if_neg (by simp [out, stale]), if_neg low, if_pos within]
    rw [eq, head, if_neg stale, if_neg (fun h => absurd h.2 (Nat.not_lt.mpr within)), Nat.min_eq_left within,
      Nat.max_eq_right (Nat.le_of_lt (Nat.lt_of_not_le low))]
    exact ⟨released_raiseHead (Nat.lt_of_not_le low), by simp⟩
  · have eq : s.release v e = (if s.ring.head < s.releaseLimit then s.raiseHead s.releaseLimit else s).raise
        .releaseClamped (some v) none none := by
      rw [State.release, if_neg (by simp [out, stale]), if_neg low, if_neg within]
    rw [eq, head, if_neg stale, if_pos (c := s.ring.head < v ∧ s.releaseLimit < v)
      ⟨Nat.lt_of_not_le low, Nat.lt_of_not_le within⟩,
      Nat.min_eq_right (Nat.le_of_lt (Nat.lt_of_not_le within))]
    by_cases rises : s.ring.head < s.releaseLimit
    · rw [if_pos rises, Nat.max_eq_right (Nat.le_of_lt rises)]
      refine ⟨(released_raiseHead rises).raise .., ?_⟩
      rw [raise_port, (raiseHead_frame s s.releaseLimit).2.2.2.2.2.2.2.2.2.2.2.2.2.1]
      rfl
    · rw [if_neg rises, Nat.max_eq_left (Nat.le_of_not_lt rises)]
      exact ⟨(released_self s).raise .., rfl⟩

end Sys2Proof.Machine
end


section
/-! SUPPORT. A watched write on arrival: a release, a mark and a malformed write (R113, R114, R116, R118, R176). -/

namespace Sys2Proof.Machine

theorem release_issuesAtOnce (s : State) (v : Nat) (e : Epoch) : (s.release v e).issuesAtOnce = s.issuesAtOnce :=
  congrArg DownLink.takesAtOnce (release_frame s v e).2.2.2.2.2.2.2.2.2.2.2.2.1

theorem requestMark_issuesAtOnce (s : State) (src : Source) (tag : MarkTag) : (s.requestMark src tag).issuesAtOnce = s.issuesAtOnce := by
  unfold State.requestMark
  split
  · exact hand_takesAtOnce s.down _
  · rfl

theorem watchAction_issuesAtOnce (s : State) (r : Request) : (s.watchAction r).issuesAtOnce = s.issuesAtOnce := by
  unfold State.watchAction
  split
  · exact release_issuesAtOnce ..
  · exact requestMark_issuesAtOnce ..
  · split <;> rfl

theorem watchAction_release {s : State} {r : Request} (h : ReleaseMask r.mask) :
    s.watchAction r = s.release (lineField r.data 0 8) (.ofNat 32 (lineField r.data 8 4)) := by
  rw [State.watchAction, watchKind_release h]

theorem watchAction_mark {s : State} {r : Request} (h : MarkMask r.mask) :
    s.watchAction r = s.requestMark .watch (.ofNat 32 (lineField r.data 16 4)) := by
  rw [State.watchAction, watchKind_mark h]

theorem watchAction_malformed {s : State} {r : Request} (release : ¬ ReleaseMask r.mask) (mark : ¬ MarkMask r.mask)
    (out : s.eng.state ≠ .off) : s.watchAction r = s.raise .watchMalformed none (some r.tag.toNat)
      (some ((List.range 64).countP fun j => r.mask.getLsbD j)) := by
  rw [State.watchAction, watchKind_malformed release mark, ← flagCount_eq]
  exact if_neg out

theorem requestMark_refused {s : State} {why : MgmtResult} (h : s.markRefusal = some why) (d : Line) :
    s.requestMark .watch (.ofNat 32 (lineField d 16 4)) =
      s.raise .markRefused none (some (lineField d 16 4)) (some (4 + 256 * why.code)) := by
  have raised : s.requestMark .watch (.ofNat 32 (lineField d 16 4)) =
      s.raiseMarkRefused .watch (.ofNat 32 (lineField d 16 4)) why := by rw [State.requestMark, h]
  rw [raised, State.raiseMarkRefused, toNat_lineField_four]
  rfl

/-- The hypotheses of a watched write that is decided on arrival: it names the control-block line out of OFF, and steps 4, 6 and 7 of R53
do not refuse it. -/
structure MeetsWatch (s : State) (r : UpRequest) (d : Line) : Prop where
  ready : s.upReady = true
  settled : s.Settled
  fresh : r.tag ∉ s.up.tags
  aligned : r.addr.toNat % 64 = 0
  full : r.mask ≠ 0
  write : r.op = .write d
  live : s.addressing.viewFlag r.addr = false
  out : s.eng.state ≠ .off
  own : s.addressing.canonical r.addr = s.layout.controlLine
  outside : s.layout.inRing (s.addressing.canonical r.addr) = false
  mode : s.mode (s.addressing.canonical r.addr) ≠ .frozen
  first : ∀ q ∈ s.hold.queue, q.req.line ≠ s.addressing.canonical r.addr

theorem MeetsWatch.running {s : State} {r : UpRequest} {d : Line} (h : MeetsWatch s r d) : s.eng.state ≠ .resetting :=
  (ready_of_upReady h.ready).2.2.1

theorem MeetsWatch.passed {s : State} {r : UpRequest} {d : Line} (h : MeetsWatch s r d) :
    s.refusesWrite (s.addressing.canonical r.addr) = false := refusesWrite_of_passed (.inr h.outside) h.mode

theorem MeetsWatch.watched {s : State} {r : UpRequest} {d : Line} (h : MeetsWatch s r d) : s.isWatched (s.heldRequest r) = true := by
  rw [isWatched_heldRequest, decide_eq_true h.out, decide_eq_true h.own]
  rfl

/-- The watch unit acts, and the write is forwarded (R114, R176). -/
theorem MeetsWatch.exec_now {s t : State} {r : UpRequest} {d : Line} (h : MeetsWatch s r d)
    (now : s.eng.state ∉ heldStates ∨ watchKind r.mask = .malformed) (acts : (s.withTag r).watchAction (s.heldRequest r) = t) :
    exec (.upstreamRequest r) s = .next (t.forwardedAs r (s.addressing.canonical r.addr) s.issuesAtOnce).finish := by
  have verdict := verdict_watched (heldRequest_write s h.write) h.running h.passed h.watched now
    (s.hold.queue.any fun e => decide (e.wait = .slot))
  have atOnce : t.issuesAtOnce = s.issuesAtOnce := by rw [← acts, watchAction_issuesAtOnce]; rfl
  have decided : (s.withTag r).decideArrival (s.heldRequest r) =
      t.forwardedAs r (s.addressing.canonical r.addr) s.issuesAtOnce := by
    rw [decideArrival_enact (s := s.withTag r) verdict (.inl rfl), ← atOnce, ← acts]
    exact forwardRequest_forwardedAs _ _ rfl (heldRequest_op s r) rfl
  rw [exec_request_decides h.ready h.fresh h.aligned h.full (.inr ⟨h.live, h.passed⟩) h.first]
  exact congrArg (fun u => Host.Outcome.next (State.finish u)) decided

/-- Where the action leaves the engine, the slots and the hold queue, the event ends with the forwarding. -/
theorem MeetsWatch.exec_same {s t : State} {r : UpRequest} {d : Line} (h : MeetsWatch s r d)
    (now : s.eng.state ∉ heldStates ∨ watchKind r.mask = .malformed) (acts : (s.withTag r).watchAction (s.heldRequest r) = t)
    (hold : t.hold = s.hold) (eng : t.eng = s.eng) (slots : s.eng.state = .active ∨ t.slots = s.slots) :
    exec (.upstreamRequest r) s = .next (t.forwardedAs r (s.addressing.canonical r.addr) s.issuesAtOnce) := by
  have quiesce : t.quiesceDue = false := by
    rcases slots with active | same
    · simp [State.quiesceDue, eng, active]
    · simpa [State.quiesceDue, eng, same] using h.settled.quiesce
  rw [h.exec_now now acts, finish_of_forwardedAs h.settled hold quiesce (by rw [eng]; exact h.running)]

theorem MeetsWatch.exec_held {s : State} {r : UpRequest} {d : Line} (h : MeetsWatch s r d) (long : s.eng.state ∈ heldStates)
    (formed : watchKind r.mask ≠ .malformed) :
    exec (.upstreamRequest r) s = .next ((s.withTag r).enter (s.heldRequest r) .engine) :=
  exec_request_held h.ready h.settled h.fresh h.aligned h.full (.inr ⟨h.live, h.passed⟩) h.first (by simp)
    (verdict_watched_held (heldRequest_write s h.write) long h.passed h.watched formed _)

theorem not_mem_heldStates {e : EngineState} (h : e = .active ∨ e = .stalled ∨ e = .broken) : e ∉ heldStates := by
  rcases h with rfl | rfl | rfl <;> decide

/-- Settles O43, from the table of R116. -/
theorem releaseMovesHead : Obligations.ReleaseMovesHead := by
  intro r d s ready settled _ fresh aligned write live state mask x v e limit head returns own outside mode first
  have going : s.eng.state = .active ∨ s.eng.state = .stalled ∨ s.eng.state = .broken := by simpa using state
  have out : s.eng.state ≠ .off := by rcases going with h | h | h <;> simp [h]
  have meets : MeetsWatch s r d :=
    ⟨ready, settled, fresh, aligned, ReleaseMask.ne_zero mask, write, live, out, own, outside, mode, first⟩
  have acts : (s.withTag r).watchAction (s.heldRequest r) = (s.withTag r).release v (.ofNat 32 e) := by
    rw [watchAction_release mask, heldRequest_data s write]
  obtain ⟨released, port⟩ := release_released (s := s.withTag r) out v (.ofNat 32 e)
  rw [show (s.withTag r).releasedHead v (BitVec.ofNat 32 e).toNat = head by rw [toNat_lineField_four]; rfl] at released
  obtain ⟨touch, slots, timer, -, -, -, views, watch, replay, scan, -, up, down, -, event, -⟩ :=
    release_frame (s.withTag r) v (.ofNat 32 e)
  refine ⟨_, meets.exec_now (.inl (not_mem_heldStates going)) acts, fun stays => ?ends, released.raised, released.frontier, released.tail,
    released.same, released.risen, up, down, event, released.returns, released.stays, touch, slots, timer, views, watch, replay, scan,
    fun full room => ?events⟩
  case ends =>
    obtain ⟨eng, -, hold⟩ := released.stays stays
    have quiescing : s.eng.state ≠ .quiescing := by rcases going with h | h | h <;> simp [h]
    refine finish_of_forwardedAs settled hold ?_ ?_
    · rw [State.quiesceDue, eng, Bool.and_assoc, Bool.and_eq_false_imp]
      exact fun h => absurd (of_decide_eq_true h) quiescing
    · rw [eng]; exact meets.running
  case events =>
    have one := releaseEvents_length_le (s.withTag r) v (.ofNat 32 e)
    have queued := foldl_append (p := s.port) ((s.withTag r).releaseEvents v (.ofNat 32 e)) (fun q _ => enables_of_full full q.kind)
      (by simp only [Config.eventPlaces]; omega)
    have stale : BitVec.ofNat 32 e ≠ (s.withTag r).eng.epoch ↔ e ≠ s.eng.epoch.toNat := epoch_ne_iff s d 8
    refine (congrArg Port.events (port.trans queued)).trans ?_
    simp only [State.releaseEvents, stale, toNat_lineField_four, e]
    rfl

/-- A mark that R30 refuses. -/
theorem MeetsWatch.exec_refused {s : State} {r : UpRequest} {d : Line} (h : MeetsWatch s r d) (mark : MarkMask r.mask)
    (going : s.eng.state = .active ∨ s.eng.state = .stalled ∨ s.eng.state = .broken) {why : MgmtResult}
    (refusal : (s.withTag r).markRefusal = some why) : exec (.upstreamRequest r) s = .next
      (((s.withTag r).raise .markRefused none (some (lineField d 16 4)) (some (4 + 256 * why.code))).forwardedAs r
        (s.addressing.canonical r.addr) s.issuesAtOnce) := by
  have acts : (s.withTag r).watchAction (s.heldRequest r) =
      (s.withTag r).raise .markRefused none (some (lineField d 16 4)) (some (4 + 256 * why.code)) := by
    rw [watchAction_mark mark, heldRequest_data s h.write, requestMark_refused refusal]
  exact h.exec_same (.inl (not_mem_heldStates going)) acts rfl rfl (.inr rfl)

/-- A mark that R29 accepts. -/
theorem MeetsWatch.exec_marked {s : State} {r : UpRequest} {d : Line} (h : MeetsWatch s r d) (mark : MarkMask r.mask)
    (active : s.eng.state = .active) (accepted : (s.withTag r).markRefusal = none) : exec (.upstreamRequest r) s = .next
      (((s.withTag r).marked .watch (.ofNat 32 (lineField d 16 4))).forwardedAs r (s.addressing.canonical r.addr) s.issuesAtOnce) := by
  have acts : (s.withTag r).watchAction (s.heldRequest r) = (s.withTag r).acceptMark .watch (.ofNat 32 (lineField d 16 4)) := by
    rw [watchAction_mark mark, heldRequest_data s h.write, State.requestMark, accepted]
  obtain ⟨eng, -, -, -, -, -, hold, -⟩ := acceptMark_frame (s.withTag r) .watch (.ofNat 32 (lineField d 16 4))
  rw [← acceptMark_marked]
  exact h.exec_same (.inl (not_mem_heldStates (.inl active))) acts hold eng (.inl active)

/-- A malformed watched write (R114). -/
theorem MeetsWatch.exec_malformed {s : State} {r : UpRequest} {d : Line} (h : MeetsWatch s r d) (mark : ¬ MarkMask r.mask)
    (release : ¬ ReleaseMask r.mask) : exec (.upstreamRequest r) s = .next (((s.withTag r).raise .watchMalformed none
      (some r.tag.toNat) (some ((List.range 64).countP fun j => r.mask.getLsbD j))).forwardedAs r
        (s.addressing.canonical r.addr) s.issuesAtOnce) :=
  h.exec_same (.inr (watchKind_malformed release mark)) (watchAction_malformed release mark h.out) rfl rfl (.inr rfl)

theorem watchKind_formed {m : Mask} (h : MarkMask m ∨ ReleaseMask m) : watchKind m ≠ .malformed := by
  rcases h with mark | release
  · rw [watchKind_mark mark]; decide
  · rw [watchKind_release release]; decide

theorem formed_ne_zero {m : Mask} (h : MarkMask m ∨ ReleaseMask m) : m ≠ 0 := h.elim MarkMask.ne_zero ReleaseMask.ne_zero

/-- Settles O44, by the tests of R30 in turn and the kinds of R114. -/
theorem watchedMarkAndMalformed : Obligations.WatchedMarkAndMalformed := by
  intro r d s ready settled _ fresh aligned write live out x u tag markMask releaseMask refused own outside mode first
  have meets (full : r.mask ≠ 0) : MeetsWatch s r d :=
    ⟨ready, settled, fresh, aligned, full, write, live, out, own, outside, mode, first⟩
  have refuses {why : MgmtResult} (mark : markMask) (going : s.eng.state = .active ∨ s.eng.state = .stalled ∨ s.eng.state = .broken)
      (refusal : u.markRefusal = some why) : refused why.code :=
    (meets (MarkMask.ne_zero mark)).exec_refused mark going refusal
  refine ⟨fun mark active segments slots space => (meets (MarkMask.ne_zero mark)).exec_marked mark active
      (markRefusal_of_accepted (s := u) active segments slots space), fun mark active => ⟨fun full => ?_, fun room full => ?_, fun room free full => ?_⟩,
    fun mark idle => ?_, fun formed long => (meets (formed_ne_zero formed)).exec_held long (watchKind_formed formed),
    fun mark release full => (meets full).exec_malformed mark release⟩
  · exact refuses (why := .listFull) mark (.inl active) (markRefusal_of_list (s := u) active full)
  · exact refuses (why := .busy) mark (.inl active) (markRefusal_of_slots (s := u) active room full)
  · exact refuses (why := .ringFull) mark (.inl active) (markRefusal_of_ring (s := u) active room free full)
  · have inactive : s.eng.state ≠ .active := by rcases idle with h | h <;> rw [h] <;> decide
    exact refuses (why := .badState) mark (.inr idle) (markRefusal_of_state (s := u) inactive)

end Sys2Proof.Machine
end


section
/-! SUPPORT. A request behind an entry for its line, and the decisions of queued entries at the end of an event (R62 to R69, R79 to
R98, R114 to R116). -/

namespace Sys2Proof.Machine

/-! ## Behind an entry for the line -/

/-- A request that an entry for its line precedes is entered with reason LINE (R63). -/
theorem exec_request_behind {s : State} {r : UpRequest} (ready : s.upReady = true) (settled : s.Settled) (fresh : r.tag ∉ s.up.tags)
    (aligned : r.addr.toNat % 64 = 0) (full : r.mask ≠ 0) (behind : ∃ e ∈ s.hold.queue, e.req.line = (s.heldRequest r).line)
    (passed : r.op = .read ∨ (s.addressing.viewFlag r.addr = false ∧ s.refusesWrite (s.addressing.canonical r.addr) = false)) :
    exec (.upstreamRequest r) s = .next ((s.withTag r).enter (s.heldRequest r) .line) := by
  have entered : (s.withTag r).classify r = (s.withTag r).enter (s.heldRequest r) .line := by
    rw [classify_submits aligned full fun d write => passed.resolve_left fun read => by rw [read] at write; cases write]
    exact submit_of_behind behind
  obtain ⟨waiting, -, running, -⟩ := ready_of_upReady ready
  have ended : ((s.withTag r).enter (s.heldRequest r) .line).finish = (s.withTag r).enter (s.heldRequest r) .line :=
    finish_of_enter (withTag_settled settled ready) waiting running (by simp)
  rw [exec_request_of_new ready fresh, entered, ended]

/-! ## What the decision of a queued entry does -/

/-- The entry under decision keeps its place, with what it waits for from now on (R62). -/
def State.keptAs (u : State) (r : Request) (w : Wait) (watched : Entry → Bool) : State := { u with hold := { u.hold with
  queue := u.hold.queue.map fun y =>
    if y.req.tag = r.tag ∧ y.wait = .ready then { req := { y.req with watched := watched y }, wait := w } else y } }

/-- The entry under decision is forwarded: it leaves where it is issued at once, and keeps its place until it is issued otherwise
(R67, R177). -/
def State.sentAs (u : State) (r : Request) : State :=
  let v : State := { u with down := u.down.handed [{
    tag := r.tag.zeroExtend 7, op := r.op, addr := r.line, mask := r.mask, owner := .forward, event := u.eventNo }] }
  if u.issuesAtOnce then v.leave r else v.keptAs r .issue fun y => y.req.watched

/-- The entry under decision is held, and it is noted whether the watch unit has it (R59, R62). -/
def State.heldNow (u : State) (r : Request) (w : Wait) : State := u.keptAs r w fun _ => decide (r.line = u.layout.controlLine)

theorem forwardRequest_sentAs (u : State) (r : Request) : u.forwardRequest true r = u.sentAs r := by
  have handed : u.handForward r = { u with down := u.down.handed [{
      tag := r.tag.zeroExtend 7, op := r.op, addr := r.line, mask := r.mask, owner := .forward, event := u.eventNo }] } := by
    rw [handed_eq]; rfl
  rw [State.sentAs]
  cases h : u.issuesAtOnce
  · rw [forwardRequest_waiting h, handed]; rfl
  · rw [forwardRequest_issued h, handed]; rfl

theorem isWatched_of_out {s : State} (h : s.eng.state ≠ .off) (r : Request) : s.isWatched r = decide (r.line = s.layout.controlLine) :=
  if_neg h

theorem holdRequest_heldNow {s : State} (out : s.eng.state ≠ .off) (r : Request) (w : Wait) :
    s.holdRequest true r w = s.heldNow r w := by
  rw [State.heldNow, ← isWatched_of_out out]; rfl

theorem isWatched_iff (s : State) (r : Request) :
    s.isWatched r = true ↔ if s.eng.state = .off then r.watched = true else r.line = s.layout.controlLine := by
  rw [State.isWatched]
  split
  · rfl
  · exact decide_eq_true_iff

/-- An older entry than the one with the tag is held SLOT (R66). -/
theorem behindSlot_iff (tag : UpTag) (q : List Entry) :
    behindSlot tag q = true ↔ ∃ a y b, q = a ++ y :: b ∧ y.wait = .slot ∧ ∀ z ∈ a ++ [y], z.req.tag ≠ tag := by
  induction q with
  | nil => simp [behindSlot]
  | cons e es ih =>
    by_cases own : e.req.tag = tag
    · rw [behindSlot, if_pos own]
      refine iff_of_false (by simp) ?_
      rintro ⟨a, y, b, split, -, others⟩
      cases a with
      | nil => exact others y (by simp) (by rw [List.nil_append, List.cons.injEq] at split; rw [← split.1]; exact own)
      | cons z a =>
        rw [List.cons_append, List.cons.injEq] at split
        exact others z (by simp) (by rw [← split.1]; exact own)
    · rw [behindSlot, if_neg own, Bool.or_eq_true, decide_eq_true_iff, ih]
      constructor
      · rintro (slot | ⟨a, y, b, rfl, slot, others⟩)
        · exact ⟨[], e, es, rfl, slot, by simpa using own⟩
        · exact ⟨e :: a, y, b, rfl, slot, by simpa [own] using others⟩
      · rintro ⟨a, y, b, split, slot, others⟩
        cases a with
        | nil =>
          rw [List.nil_append, List.cons.injEq] at split
          exact .inl (by rw [split.1]; exact slot)
        | cons z a =>
          rw [List.cons_append, List.cons.injEq] at split
          exact .inr ⟨a, y, b, split.2, slot, fun x hx => others x (List.mem_cons_of_mem z hx)⟩

/-! ## The end of an event goes on from a decision -/

/-- The oldest decidable entry is decided, and the event ends from what its verdict does (R66; log 39). -/
theorem finish_of_verdict {s : State} {e : Entry} (first : s.firstReady = some e) (quiesce : s.quiesceDue = false) {v : Verdict}
    (h : s.verdict e.req (behindSlot e.req.tag s.hold.queue) = v) : s.finish = (s.enact true e.req v).finish := by
  rw [finish_of_ready first quiesce ((decideEntry_decided s e.req).quiesceDue quiesce), State.decideEntry, h]

/-- With no entry to decide, the waiting request is offered anew (R64; log 19). -/
theorem finish_of_waiting {s : State} {r : Request} (none : s.firstReady = .none) (waiting : s.hold.waiting = some r)
    (room : s.hold.queue.length < 16) (quiesce : s.quiesceDue = false)
    (quiesce' : (State.submit { s with hold := { s.hold with waiting := .none } } r).quiesceDue = false) :
    s.finish = (State.submit { s with hold := { s.hold with waiting := .none } } r).finish := by
  rw [State.finish, State.finish, checkQuiesce_of_not_due quiesce, checkQuiesce_of_not_due quiesce', settle_of_waiting none waiting room]

/-! ## The rows of the decision, queued -/

section
variable {s : State} {e : Entry} (first : s.firstReady = some e) (quiesce : s.quiesceDue = false)
include first quiesce

theorem finish_forwarded (h : s.verdict e.req (behindSlot e.req.tag s.hold.queue) = .forward) :
    s.finish = (s.sentAs e.req).finish := by
  rw [finish_of_verdict first quiesce h, ← forwardRequest_sentAs]; rfl

theorem finish_held {w : Wait} (out : s.eng.state ≠ .off) (h : s.verdict e.req (behindSlot e.req.tag s.hold.queue) = .hold w) :
    s.finish = (s.heldNow e.req w).finish := by
  rw [finish_of_verdict first quiesce h, ← holdRequest_heldNow out]; rfl

theorem finish_answered {st : LinkStatus} (h : s.verdict e.req (behindSlot e.req.tag s.hold.queue) = .answer st) :
    s.finish = ((s.answer e.req.tag st none).leave e.req).finish := by
  rw [finish_of_verdict first quiesce h]; rfl

theorem finish_watched {t : State} (acts : s.watchAction e.req = t)
    (h : s.verdict e.req (behindSlot e.req.tag s.hold.queue) = .watch) : s.finish = (t.sentAs e.req).finish := by
  rw [finish_of_verdict first quiesce h, ← forwardRequest_sentAs, ← acts]; rfl

end

/-! ## Watched writes in OFF -/

/-- In OFF a release is stale (R114). -/
theorem watchAction_release_off {s : State} {r : Request} (h : ReleaseMask r.mask) (off : s.eng.state = .off) :
    s.watchAction r = s.raise .releaseStale (some (lineField r.data 0 8)) (some (lineField r.data 8 4)) none := by
  have stale (v : Nat) (e : Epoch) : s.release v e = s.raise .releaseStale (some v) (some e.toNat) none := if_pos (.inl off)
  rw [watchAction_release h, stale, toNat_lineField_four]

theorem watchAction_malformed_off {s : State} {r : Request} (release : ¬ ReleaseMask r.mask) (mark : ¬ MarkMask r.mask)
    (off : s.eng.state = .off) : s.watchAction r = s := by
  rw [State.watchAction, watchKind_malformed release mark]
  exact if_pos off

/-- A mark outside ACTIVE is refused BAD_STATE (R30). -/
theorem watchAction_mark_refused {s : State} {r : Request} (h : MarkMask r.mask) (idle : s.eng.state ≠ .active) :
    s.watchAction r = s.raise .markRefused none (some (lineField r.data 16 4)) (some (4 + 256 * 2)) := by
  rw [watchAction_mark h, requestMark_refused (markRefusal_of_state idle)]
  rfl

theorem Request.data_of_write {r : Request} {d : Line} (h : r.kind = .write d) : r.data = d := by
  rw [Request.data, h]

/-! ## The tables of decision, queued -/

section
variable {s : State} {e : Entry} (first : s.firstReady = some e) (quiesce : s.quiesceDue = false) (running : s.eng.state ≠ .resetting)
include first quiesce running

/-- A queued live read (R91). -/
theorem finish_of_read (read : e.req.kind = .read) :
    (s.eng.state = .rolling ∧ s.mode e.req.line = .journaled → s.finish = (s.heldNow e.req .engine).finish) ∧
    (s.eng.state ≠ .rolling ∨ s.mode e.req.line ≠ .journaled → s.finish = (s.sentAs e.req).finish) :=
  ⟨fun ⟨rolling, journaled⟩ => finish_held first quiesce (by simp [rolling]) (verdict_read_held read rolling journaled _),
    fun free => finish_forwarded first quiesce (verdict_read_forward read running free _)⟩

/-- A queued view read (R96 to R98). -/
theorem finish_of_view (view : e.req.kind = .viewRead) :
    (s.loses → s.finish = ((s.answer e.req.tag .viewLost none).leave e.req).finish) ∧
    (s.eng.state = .rolling → s.finish = (s.heldNow e.req .engine).finish) ∧
    (¬ s.loses → s.eng.state ≠ .rolling → 16 ≤ s.views.length → s.finish = (s.heldNow e.req .place).finish) ∧
    (¬ s.loses → s.eng.state ≠ .rolling → s.views.length < 16 → ∀ v, s.viewSourceVerdict e.req = v →
      s.finish = (s.enact true e.req v).finish) :=
  ⟨fun lost => finish_answered first quiesce (verdict_view_lost view running lost _),
    fun rolling => finish_held first quiesce (by simp [rolling]) (verdict_view_rolling view rolling _),
    fun kept rolling full => finish_held first quiesce (fun off => kept (.inl (by simp [off])))
      (verdict_view_full view running kept rolling full _),
    fun kept rolling room _ source => finish_of_verdict first quiesce ((verdict_view_source view running kept rolling room _).trans source)⟩

/-- A queued write that the watch unit has (R114). -/
theorem finish_of_own {d : Line} (write : e.req.kind = .write d) (passed : s.refusesWrite e.req.line = false)
    (own : s.isWatched e.req = true) :
    (s.eng.state ∉ heldStates ∨ watchKind e.req.mask = .malformed → s.finish = ((s.watchAction e.req).sentAs e.req).finish) ∧
    (s.eng.state ∈ heldStates → ReleaseMask e.req.mask ∨ MarkMask e.req.mask → s.finish = (s.heldNow e.req .engine).finish) := by
  refine ⟨fun now => finish_watched first quiesce rfl (verdict_watched write running passed own now _), fun long formed => ?_⟩
  have wellFormed : watchKind e.req.mask ≠ .malformed := by
    rcases formed with release | mark
    · rw [watchKind_release release]; decide
    · rw [watchKind_mark mark]; decide
  have out : s.eng.state ≠ .off := fun off => absurd long (by simp [off])
  exact finish_held first quiesce out (verdict_watched_held write long passed own wellFormed _)

/-- A queued write that the watch unit does not have is forwarded or decided by R68 and R69. -/
theorem finish_of_other {d : Line} (write : e.req.kind = .write d) (passed : s.refusesWrite e.req.line = false)
    (other : s.isWatched e.req = false) :
    (s.mode e.req.line ≠ .journaled → s.finish = (s.sentAs e.req).finish) ∧
    (s.mode e.req.line = .journaled → ∀ v, s.journaledVerdict e.req (behindSlot e.req.tag s.hold.queue) = v →
      s.finish = (s.enact true e.req v).finish) :=
  ⟨fun pass => finish_forwarded first quiesce (verdict_pass write running passed other pass _),
    fun journaled _ row => finish_of_verdict first quiesce ((verdict_journaled write running passed other journaled _).trans row)⟩

end

/-! ## The held entries of an event -/

theorem enact_journal_queued {s : State} (active : s.eng.state = .active) (r : Request) : s.enact true r .journal =
    (s.startOperation r).keptAs r (.record s.ring.tail) fun _ => decide (r.line = s.layout.controlLine) := by
  have out : (s.startOperation r).eng.state ≠ .off := by rw [startOperation_eng, active]; decide
  have layout : (s.startOperation r).layout = s.layout := by rw [startOperation_eq]
  rw [← layout]
  exact holdRequest_heldNow out r (.record s.ring.tail)

theorem enact_stallRing_queued {s : State} (out : s.eng.state ≠ .off) (r : Request) : s.enact true r .stallRing =
    State.raise { s.heldNow r .space with eng := { s.eng with state := .stalled }, stall := some 0 }
      .ringFull (some s.ring.tail) (some r.tag.toNat) (some (2 ^ s.layout.order)) := by
  rw [← holdRequest_heldNow out]; rfl

theorem enact_refuseFull_queued (s : State) (r : Request) : s.enact true r .refuseFull =
    ((if s.ring.fullReported then s else
      { s.raise .ringFull (some s.ring.tail) (some r.tag.toNat) (some (2 ^ s.layout.order)) with
        ring := { s.ring with fullReported := true } }).answer r.tag .ringFull none).leave r := by
  rw [← reportFull_eq]; rfl

theorem idle_states {e : EngineState} (h : e ∈ [EngineState.stalled, .broken]) : e ∉ heldStates ∧ e ≠ .active := by
  revert h; cases e <;> decide

theorem going_states {e : EngineState} (h : e ∈ [EngineState.active, .stalled, .broken]) : e = .active ∨ e = .stalled ∨ e = .broken := by
  simpa using h

theorem out_of_held {e : EngineState} (h : e ∈ heldStates) : e ≠ .off := by
  revert h; cases e <;> decide


/-- Settles O38, by the rows of the tables of decision. -/
theorem heldBehindItsLine : Obligations.HeldBehindItsLine := by
  refine ⟨?entered, fun s r none waiting room quiesce quiesce' => finish_of_waiting none waiting room quiesce quiesce', ?decided⟩
  case entered =>
    intro r s ready settled fresh aligned full q behind passed
    have passes : r.op = .read ∨
        (s.addressing.viewFlag r.addr = false ∧ s.refusesWrite (s.addressing.canonical r.addr) = false) :=
      passed.imp_right fun ⟨live, ring, mode⟩ => ⟨live, refusesWrite_of_passed ring mode⟩
    exact ⟨_, exec_request_behind ready settled fresh aligned full behind passes, rfl, fun queue => upReady_of_full queue⟩
  intro s e first quiesce running r x kept held sent answered olderSlot long lost ringFull absent refused watched isMark isRelease full ring
  refine ⟨fun read => finish_of_read first quiesce running read, fun view => ?view, fun d write => ?write⟩
  case view =>
    obtain ⟨gone, rolls, places, takes⟩ := finish_of_view first quiesce running view
    refine ⟨gone, rolls, places, fun kept rolling room => ⟨fun live => takes kept rolling room (.view .live) ?_,
      fun q journaled found => takes kept rolling room (.view (.slot q)) (viewSource_slot journaled found),
      fun journaled missing saturated => takes kept rolling room (.answer .viewLost) (viewSource_lost journaled missing saturated)⟩⟩
    exact live.elim viewSource_unjournaled fun ⟨missing, exact⟩ => viewSource_live missing exact
  case write =>
    have refuses : s.refusesWrite x = true ↔ refused := refusesWrite_iff s x
    have watches : s.isWatched r = true ↔ watched := isWatched_iff s r
    refine ⟨fun no => finish_answered first quiesce (verdict_write_refused write running (refuses.mpr no) _), fun no own => ?own,
      fun no other => ?other⟩
    all_goals have passed : s.refusesWrite x = false := Bool.eq_false_iff.mpr (mt refuses.mp no)
    case own =>
      obtain ⟨acts, holds⟩ := finish_of_own first quiesce running write passed (watches.mpr own)
      have data : r.data = d := Request.data_of_write write
      have becomes {t : State} (now : s.eng.state ∉ heldStates ∨ watchKind r.mask = .malformed) (action : s.watchAction r = t) :
          s.finish = (t.sentAs r).finish := (acts now).trans (congrArg (fun u => (State.sentAs u r).finish) action)
      have offNow (off : s.eng.state = .off) : s.eng.state ∉ heldStates := by rw [off]; decide
      rw [← data]
      refine ⟨fun off => ⟨fun release => becomes (.inl (offNow off)) (watchAction_release_off release off),
          fun mark => becomes (.inl (offNow off)) (watchAction_mark_refused mark (by rw [off]; decide)),
          fun release mark => becomes (.inl (offNow off)) (watchAction_malformed_off release mark off)⟩,
        holds, fun out release mark => becomes (.inr (watchKind_malformed release mark)) (watchAction_malformed release mark out),
        fun idle mark => ?_, fun active mark => becomes (.inl (not_mem_heldStates (.inl active))) (watchAction_mark mark),
        fun going release => becomes (.inl (not_mem_heldStates ?_)) (watchAction_release release)⟩
      · obtain ⟨parked, inactive⟩ := idle_states idle
        exact becomes (.inl parked) (watchAction_mark_refused mark inactive)
      · exact going_states going
    case other =>
      obtain ⟨passes, rows⟩ := finish_of_other first quiesce running write passed (Bool.eq_false_iff.mpr (mt watches.mp other))
      have older : behindSlot r.tag s.hold.queue = true ↔ olderSlot := behindSlot_iff r.tag s.hold.queue
      have sends (h : s.mode x = .journaled → s.journaledVerdict r (behindSlot r.tag s.hold.queue) = .forward) :
          s.finish = (s.sentAs r).finish := by
        by_cases journaled : s.mode x = .journaled
        · exact (rows journaled .forward (h journaled)).trans (congrArg State.finish (forwardRequest_sentAs s r))
        · exact passes journaled
      have holds {w : Wait} (journaled : s.mode x = .journaled) (out : s.eng.state ≠ .off)
          (h : s.journaledVerdict r (behindSlot r.tag s.hold.queue) = .hold w) : s.finish = (s.heldNow r w).finish :=
        (rows journaled (.hold w) h).trans (congrArg State.finish (holdRequest_heldNow out r w))
      have free (h : ¬ full) : s.slots.length < 8 ∧ behindSlot r.tag s.hold.queue = false :=
        ⟨Nat.lt_of_not_le fun slots => h (.inl slots), Bool.eq_false_iff.mpr fun behind => h (.inr (older.mp behind))⟩
      refine ⟨fun row => sends fun journaled => journaledVerdict_idle (row.resolve_left (by rw [journaled]; decide)) r _,
        fun going touched => sends fun _ => journaledVerdict_touched going touched _,
        fun journaled going => holds journaled (out_of_held going) (journaledVerdict_long going r _),
        fun ⟨journaled, missing⟩ stalled => holds journaled (by rw [stalled]; decide) (journaledVerdict_stalled stalled missing _),
        fun ⟨journaled, missing⟩ active slots => holds journaled (by rw [active]; decide)
          (journaledVerdict_slot active missing (slots.imp_right older.mpr)),
        fun ⟨journaled, missing⟩ active room space => ?journal,
        fun ⟨journaled, missing⟩ active room used => ⟨fun stall => ?stall, fun refuse => ?refuse, fun breaks => ?breaks⟩⟩
      all_goals
        obtain ⟨slots, behind⟩ := free room
        have out : s.eng.state ≠ .off := by rw [active]; decide
        rw [behind] at rows
      case journal =>
        exact (rows journaled .journal (journaledVerdict_space active missing slots space)).trans
          (congrArg State.finish (enact_journal_queued active r))
      all_goals have verdict := journaledVerdict_full (r := r) active missing slots used
      case stall =>
        have policy : s.fullVerdict = .stallRing := by rw [State.fullVerdict, stall]
        exact (rows journaled .stallRing (verdict.trans policy)).trans (congrArg State.finish (enact_stallRing_queued out r))
      case refuse =>
        have policy : s.fullVerdict = .refuseFull := by rw [State.fullVerdict, refuse]
        exact (rows journaled .refuseFull (verdict.trans policy)).trans (congrArg State.finish (enact_refuseFull_queued s r))
      case breaks =>
        have policy : s.fullVerdict = .breakFull := by rw [State.fullVerdict, breaks]
        exact (rows journaled .breakFull (verdict.trans policy)).trans
          (congrArg State.finish (forwardRequest_sentAs (s.enterBroken .ringFullBreak) r))

end Sys2Proof.Machine
end


section
/-! SUPPORT. The expiries of the mark timer and of the stall timer (R29, R30, R36, R82). -/

namespace Sys2Proof.Machine

theorem exec_markTimerExpiry_stopped {s : State} (hr : s.rstn = true) (h : s.markRunning = false) :
    exec .markTimerExpiry s = .next s.nextEvent := by
  have stopped : s.nextEvent.markRunning = false := h
  show execMarkTimerExpiry s = _
  simp [execMarkTimerExpiry, running_of_high hr, stopped]

theorem exec_stallTimerExpiry_stopped {s : State} (hr : s.rstn = true) (h : s.eng.state ≠ .stalled) :
    exec .stallTimerExpiry s = .next s.nextEvent := by
  show execStallTimerExpiry s = _
  simp [execStallTimerExpiry, running_of_high hr, h]

theorem markRunning_iff (s : State) : s.markRunning = true ↔ s.timer.enabled = true ∧ s.eng.state ≠ .off ∧ s.eng.state ≠ .resetting := by
  simp [State.markRunning, and_assoc]

/-- The state in which an expiry of the mark timer requests its marker: the counter and the phase restart, the count rises (R36). -/
def State.markExpired (s : State) : State :=
  { s with eventNo := s.eventNo + 1, timer := { s.timer with counter := 0, phase := 0, markCount := s.timer.markCount + 1 } }

/-- An expiry of a running mark timer whose marker is refused (R30). -/
theorem exec_markTimerExpiry_refused {s : State} {why : MgmtResult} (hr : s.rstn = true) (running : s.markRunning = true)
    (refusal : s.markExpired.markRefusal = some why) : exec .markTimerExpiry s = .next (s.markExpired.raise .markRefused none
      (some s.timer.markCount.toNat) (some (5 + 256 * why.code))) := by
  have refused : s.markExpired.requestMark .timer s.timer.markCount = s.markExpired.raiseMarkRefused .timer s.timer.markCount why := by
    rw [State.requestMark, refusal]
  rw [exec_markTimerExpiry hr running]
  exact congrArg _ refused

/-- The STALL_EXPIRED event is raised ahead of BROKEN, and carries the state after the event (R82). -/
theorem stallExpiry_eq (s : State) : s.stallExpiry = State.enterBroken (State.raise { s with
    eng := { s.eng with state := .broken } } .stallExpired (some s.ring.tail) (some s.layout.stallLimit)
    (some (s.hold.queue.countP fun e => e.wait = .space))) .stallExpired := by
  rw [List.countP_eq_length_filter]; rfl

/-- Settles O54, by the tests of R30 in turn and the entry into BROKEN. -/
theorem timerExpiries : Obligations.TimerExpiries := by
  intro s hr timer refused
  have runs (enabled : s.timer.enabled = true) (state : s.eng.state ≠ .off ∧ s.eng.state ≠ .resetting) : s.markRunning = true :=
    (markRunning_iff s).mpr ⟨enabled, state⟩
  have runsActive (enabled : s.timer.enabled = true) (active : s.eng.state = .active) : s.markRunning = true :=
    runs enabled (by rw [active]; decide)
  refine ⟨fun stopped => exec_markTimerExpiry_stopped hr (Bool.eq_false_iff.mpr fun running => ?stopped),
    fun enabled state => ?badState, fun enabled active => ⟨fun full => ?_, fun room full => ?_, fun room free full => ?_⟩,
    fun enabled active room free space => ?accepted, exec_stallTimerExpiry_stopped hr, fun stalled sound => ?stall⟩
  case stopped =>
    obtain ⟨enabled, out, live⟩ := (markRunning_iff s).mp running
    rcases stopped with off | off | resetting
    · exact absurd enabled (by simp [off])
    · exact out off
    · exact live resetting
  case badState =>
    simp only [List.mem_cons, List.not_mem_nil, or_false, not_or] at state
    obtain ⟨out, live, inactive⟩ := state
    exact exec_markTimerExpiry_refused hr (runs enabled ⟨out, live⟩) (markRefusal_of_state (s := s.markExpired) inactive)
  · exact exec_markTimerExpiry_refused hr (runsActive enabled active) (markRefusal_of_list (s := s.markExpired) active full)
  · exact exec_markTimerExpiry_refused hr (runsActive enabled active) (markRefusal_of_slots (s := s.markExpired) active room full)
  · exact exec_markTimerExpiry_refused hr (runsActive enabled active) (markRefusal_of_ring (s := s.markExpired) active room free full)
  case accepted =>
    have marked : s.markExpired.requestMark .timer s.timer.markCount = s.markExpired.marked .timer s.timer.markCount := by
      rw [State.requestMark, markRefusal_of_accepted (s := s.markExpired) active room free space, ← acceptMark_marked]
    rw [exec_markTimerExpiry hr (runsActive enabled active)]
    exact congrArg _ marked
  case stall =>
    rw [exec_stallTimerExpiry hr stalled, stallExpiry_eq]
    refine ⟨_, rfl, fun empty => ?_, enterBroken_brokenFrom _ _⟩
    exact finish_of_empty (enterBroken_hold_empty (by exact empty) _) (by simp) (by simp)

end Sys2Proof.Machine
end


section
/-! SUPPORT. Memory's answers to forwarded requests, and the tags of the downstream link (R170 to R179). -/

namespace Sys2Proof.Machine

/-! ## Downstream tags -/

theorem inUse_iff (d : DownLink) (t : DownTag) : d.inUse t = true ↔ ∃ q ∈ d.toIssue ++ d.issued, q.tag = t := by
  simp only [DownLink.inUse, Bool.or_eq_true, List.any_eq_true, beq_iff_eq, List.mem_append, or_and_right, exists_or]

theorem mem_internalTags (t : DownTag) : t ∈ internalTags ↔ 64 ≤ t.toNat := by
  simp only [internalTags, List.mem_map, List.mem_range]
  constructor
  · rintro ⟨i, hi, rfl⟩
    rw [BitVec.toNat_ofNat, Nat.mod_eq_of_lt (by omega)]
    exact Nat.le_add_right 64 i
  · intro h
    have := t.isLt
    refine ⟨t.toNat - 64, by omega, ?_⟩
    rw [Nat.add_sub_cancel' h, BitVec.ofNat_toNat, BitVec.setWidth_eq]

theorem internalTags_ascending : internalTags.Pairwise fun a b => a.toNat < b.toNat := by decide

/-- The free tag is the lowest-numbered of the device's own that is not in use (R178). -/
theorem freeTag_lowest {d : DownLink} (h : ∃ t : DownTag, 64 ≤ t.toNat ∧ d.inUse t = false) :
    64 ≤ d.freeTag.toNat ∧ d.inUse d.freeTag = false ∧
      ∀ t : DownTag, 64 ≤ t.toNat → t.toNat < d.freeTag.toNat → d.inUse t = true := by
  obtain ⟨free, own, unused⟩ := h
  obtain ⟨x, found⟩ : ∃ x, internalTags.find? (fun t => !d.inUse t) = some x :=
    Option.isSome_iff_exists.mp (List.find?_isSome.mpr ⟨free, (mem_internalTags free).mpr own, by simp [unused]⟩)
  have value : d.freeTag = x := by rw [DownLink.freeTag, found]; rfl
  obtain ⟨here, before, after, split, used⟩ := List.find?_eq_some_iff_append.mp found
  have ascending := internalTags_ascending
  rw [split] at ascending
  rw [value]
  refine ⟨(mem_internalTags x).mp (split ▸ by simp), by simpa using here, fun t ht low => ?_⟩
  have listed : t ∈ before ++ x :: after := split ▸ (mem_internalTags t).mpr ht
  rcases List.mem_append.mp listed with earlier | rest
  · simpa using used t earlier
  · rcases List.mem_cons.mp rest with rfl | later
    · exact absurd low (Nat.lt_irrefl _)
    · have above := (List.pairwise_cons.mp (List.pairwise_append.mp ascending).2.1).1 t later
      exact absurd low (Nat.not_lt_of_lt above)

theorem handOwn_handed (s : State) (op : LinkOp) (addr : Addr) (mask : Mask) (owner : Owner) :
    s.handOwn op addr mask owner = { s with down := s.down.handed [{
      tag := s.down.freeTag, op := op, addr := addr, mask := mask, owner := owner, event := s.eventNo }] } := by
  rw [handed_eq]; rfl

/-! ## Responses -/

theorem issuedWith_tag {d : DownLink} {t : DownTag} {q : DownRequest} (h : d.issuedWith t = some q) : q.tag = t := by
  simpa using List.find?_some h

/-- The answer to a forwarded request ends no soft reset (R193). -/
theorem taking_internalBusy {s : State} {t : DownTag} (h : t.toNat < 64) : (s.taking t).down.internalBusy = s.down.internalBusy := by
  have kept : ((s.down.issued.filter fun q => q.tag ≠ t).any fun r => decide (64 ≤ r.tag.toNat)) =
      s.down.issued.any fun r => decide (64 ≤ r.tag.toNat) := by
    rw [List.any_filter]
    refine List.any_congr rfl fun q => ?_
    by_cases same : q.tag = t
    · simp [same, Nat.not_le.mpr h]
    · simp [same]
  show (_ || _) = (_ || _)
  exact congrArg _ kept

/-- The response to a forwarded request ends its event with the answer upstream (R175). -/
theorem exec_forwardedResponse {s : State} {r : MemResponse} {q : DownRequest} (hr : s.rstn = true) (settled : s.Settled)
    (forwarded : r.tag.toNat < 64) (issued : s.down.issuedWith r.tag = some q) (owner : q.owner = .forward) {st : LinkStatus}
    {d : Option Line} (answer : (s.taking r.tag).forwardReturned q r = (s.taking r.tag).answer (r.tag.truncate 6) st d) :
    exec (.forwardedResponse r) s = .next ((s.taking r.tag).answer (r.tag.truncate 6) st d) := by
  have delivered : (s.taking r.tag).deliver q r = (s.taking r.tag).answer (r.tag.truncate 6) st d := by
    rw [State.deliver, owner]; exact answer
  have reset : ((s.taking r.tag).answer (r.tag.truncate 6) st d).resetDue = false :=
    (congrArg (fun b => decide (s.eng.state = .resetting) && !b) (taking_internalBusy forwarded)).trans settled.reset
  rw [exec_response rfl, memoryResponse_of_issued hr issued, delivered]
  exact congrArg _ (finish_of_same settled rfl settled.quiesce reset)

theorem forwardReturned_failed {s : State} {q : DownRequest} {r : MemResponse} (h : r.status ≠ .ok) :
    s.forwardReturned q r = s.answer (q.tag.truncate 6) .memError none := by
  simp [State.forwardReturned, responseOk, h]

theorem forwardReturned_write {s : State} {q : DownRequest} {r : MemResponse} {d : Line} (h : r.status = .ok) (write : q.op = .write d) :
    s.forwardReturned q r = s.answer (q.tag.truncate 6) .ok none := by
  simp [State.forwardReturned, responseOk, h, write]

theorem forwardReturned_read {s : State} {q : DownRequest} {r : MemResponse} (h : r.status = .ok) (read : q.op = .read) :
    s.forwardReturned q r = s.answer (q.tag.truncate 6) .ok (some (selected q.mask r.data)) := by
  simp [State.forwardReturned, responseOk, h, read]

theorem exec_strayResponse {s : State} {r : MemResponse} (hr : s.rstn = true) (unused : s.down.inUse r.tag = false) :
    exec (.strayResponse r) s = .next s.nextEvent := by
  have none : s.down.issuedWith r.tag = none := List.find?_eq_none.mpr fun q hq same => by
    have used := (inUse_iff s.down r.tag).mpr ⟨q, List.mem_append_right _ hq, of_decide_eq_true same⟩
    exact absurd used (by simp [unused])
  rw [exec_response rfl, memoryResponse_of_stray hr none unused]

/-- Settles O46, by the status and the kind of the answered request. -/
theorem forwardedAndStrayResponses : Obligations.ForwardedAndStrayResponses := by
  refine ⟨fun r s hr settled => ⟨fun q forwarded issued owner => ?_, exec_strayResponse hr⟩, inUse_iff, fun d => freeTag_lowest,
    handOwn_handed⟩
  have tag := issuedWith_tag issued
  have answered {st : LinkStatus} {d : Option Line}
      (answer : (s.taking r.tag).forwardReturned q r = (s.taking r.tag).answer (q.tag.truncate 6) st d) :=
    exec_forwardedResponse hr settled forwarded issued owner (tag ▸ answer)
  exact ⟨fun ok d write => answered (forwardReturned_write ok write),
    fun ok read => ⟨_, answered (forwardReturned_read ok read), fun j _ => lineByte_selected q.mask r.data j⟩,
    fun failed => answered (forwardReturned_failed failed)⟩

end Sys2Proof.Machine
end


section
/-! SUPPORT. The control-block reads of START and of RECOVER return, and the view reader's reads (R97 to R103, R125, R126, R158 to
R160). -/

namespace Sys2Proof.Machine

/-- A response's event: the tag is free, the response delivered, and the event ends. -/
theorem exec_delivered {c : Instr} {s t : State} {r : MemResponse} {q : DownRequest} (response : responseOf c = some r)
    (hr : s.rstn = true) (issued : s.down.issuedWith r.tag = some q) (delivered : (s.taking r.tag).deliver q r = t) :
    exec c s = .next t.finish := by
  rw [exec_response response, memoryResponse_of_issued hr issued, delivered]

theorem responseOk_iff (r : MemResponse) : responseOk r = true ↔ r.status = .ok := decide_eq_true_iff

theorem responseOk_false {r : MemResponse} (h : r.status ≠ .ok) : responseOk r = false := decide_eq_false h

/-! ## START -/

theorem nextEpoch_stored (n : Nat) (h : n < 2 ^ 32) : nextEpoch (.ofNat 32 n) = if n = 0xFFFFFFFF then 1 else .ofNat 32 (n + 1) := by
  have last : BitVec.ofNat 32 n = 0xFFFFFFFF#32 ↔ n = 0xFFFFFFFF := by
    rw [← BitVec.toNat_inj, BitVec.toNat_ofNat, Nat.mod_eq_of_lt h]
    rfl
  rw [nextEpoch]
  simp only [last]
  split
  · rfl
  · exact (BitVec.ofNat_add n 1).symm

theorem startReadReturned_ok {s : State} {r : MemResponse} (opening : s.eng.state = .opening) (ok : r.status = .ok) :
    s.startReadReturned r = State.openingStep1 { s with
      eng := { s.eng with epoch := nextEpoch (.ofNat 32 (lineField r.data 32 4)) } } := by
  rw [State.startReadReturned, if_neg (by simp [opening]), if_pos ((responseOk_iff r).mpr ok)]

theorem startReadReturned_failed {s : State} {r : MemResponse} (opening : s.eng.state = .opening) (failed : r.status ≠ .ok) :
    s.startReadReturned r = (State.enterOff { s.emptyJournal with timer := s.timer.beforeStart }).raise .openFailed none (some 1)
      none := by
  rw [State.startReadReturned, if_neg (by simp [opening]), if_neg (by simp [responseOk_false failed])]
  rfl

/-- Settles O50, by the status of the read. -/
theorem startControlReadResponse : Obligations.StartControlReadResponse := by
  intro r s q hr settled issued owner opening stored
  have delivered : (s.taking r.tag).deliver q r = (s.taking r.tag).startReadReturned r := by rw [State.deliver, owner]
  refine ⟨fun ok => ?_, fun failed => ?_⟩
  · rw [exec_delivered rfl hr issued (delivered.trans (startReadReturned_ok opening ok)), nextEpoch_stored stored (lineField_lt ..)]
    refine congrArg _ (finish_of_same settled ?_ ?_ ?_)
    · simp [State.openingStep1, State.taking]
    · simp [State.openingStep1, State.quiesceDue, State.taking, opening]
    · simp [State.openingStep1, State.resetDue, State.taking, opening]
  · refine ⟨_, exec_delivered rfl hr issued (delivered.trans (startReadReturned_failed opening failed)), fun empty => ?_, ?_⟩
    · have none : (State.enterOff { (s.taking r.tag).emptyJournal with timer := s.timer.beforeStart }).hold =
          { queue := [], waiting := none } := (enterOff_hold _).trans (congrArg (fun h : Hold =>
            ({ h with queue := decidableNow [.engine, .slot, .space] h.queue } : Hold)) empty)
      exact finish_of_empty none (by simp [State.raise]) (by simp [State.raise])
    · rw [State.enterOff, State.wake, wakeEntries_clearedByEngine]
      rfl

/-! ## The scan's reads -/

/-- A place taken for a slot leaves the reads of the slots behind it as they are. -/
theorem slotReads_withScan (s : State) (x y : Option Scan) (header data : Nat → Owner) (l : List Nat) :
    { State.slotReads { s with scan := x } header data l with scan := y } = { s.slotReads header data l with scan := y } := by
  rw [slotReads_eq, slotReads_eq s, slotReads_down_congr (s := s) (t := { s with scan := x }) rfl rfl rfl]

theorem readScan_of_room {s : State} {c : Scan} (unit : s.scan = some c) (going : c.stopped = false) (room : c.places.length < 8)
    (n : Nat) : State.readScan (n + 1) s = State.readScan n { s.readSlot .scanHeader .scanData c.readCursor with
      scan := some { c with places := c.places ++ [freshScanPlace c.readCursor], readCursor := c.readCursor + 1 } } := by
  rw [State.readScan, unit]
  exact if_pos ⟨by rw [going]; rfl, room⟩

theorem readScan_of_done {s : State} {c : Scan} (unit : s.scan = some c) (done : c.stopped = true ∨ 8 ≤ c.places.length) (n : Nat) :
    State.readScan n s = s := by
  cases n with
  | zero => rfl
  | succ n =>
    rw [State.readScan, unit]
    exact if_neg fun ⟨going, room⟩ => done.elim (fun stopped => by rw [stopped] at going; cases going) (Nat.not_le.mpr room)

/-- The scan unit takes n places for the seqs from its read cursor up, and hands the two reads of each (R160). -/
theorem readScan_eq (n : Nat) (s : State) {c : Scan} (unit : s.scan = some c) (going : c.stopped = false)
    (room : c.places.length + n ≤ 8) :
    State.readScan n s = { s.slotReads .scanHeader .scanData ((List.range n).map fun i => c.readCursor + i) with
      scan := some { c with places := c.places ++ ((List.range n).map fun i => c.readCursor + i).map freshScanPlace
                            readCursor := c.readCursor + n } } := by
  induction n generalizing s c with
  | zero =>
    simp only [State.readScan, List.range_zero, List.map_nil, List.append_nil, slotReads_nil]
    exact congrArg (fun x => { s with scan := x }) unit
  | succ n ih =>
    have seqs : (List.range (n + 1)).map (fun i => c.readCursor + i) =
        c.readCursor :: (List.range n).map fun i => c.readCursor + 1 + i := by
      rw [List.range_succ_eq_map, List.map_cons, List.map_map]
      exact congrArg _ (List.map_congr_left fun i _ => (Nat.add_right_comm c.readCursor i 1).trans rfl)
    have rest := ih { s.readSlot .scanHeader .scanData c.readCursor with
        scan := some { c with places := c.places ++ [freshScanPlace c.readCursor], readCursor := c.readCursor + 1 } }
      (c := { c with places := c.places ++ [freshScanPlace c.readCursor], readCursor := c.readCursor + 1 })
      rfl going (by simp; omega)
    rw [readScan_of_room unit going (by omega), rest, slotReads_withScan, seqs, slotReads_cons]
    simp only [List.map_cons, List.append_assoc, List.singleton_append, Nat.add_assoc, Nat.add_comm 1]

/-! ## RECOVER -/

theorem causeOfCode_isNone_iff (n : Nat) : (causeOfCode n).isNone = true ↔ n = 0 ∨ 7 < n := by
  rcases Nat.lt_or_ge 7 n with high | low
  · obtain ⟨k, rfl⟩ := Nat.exists_eq_add_of_le' high
    exact iff_of_true rfl (.inr high)
  · revert low
    revert n
    decide

/-- What the failure of a scan does (R158). -/
theorem recoverReadReturned_failed {s : State} {r : MemResponse} {result : Nat} (scanning : s.eng.state = .scanning)
    (h : scanFailure r = some result) : s.recoverReadReturned r = s.failScan result := by
  rw [State.recoverReadReturned, if_neg (by simp [scanning]), h]

theorem recoverReadReturned_ok {s : State} {r : MemResponse} (scanning : s.eng.state = .scanning) (h : scanFailure r = none) :
    s.recoverReadReturned r = State.readScan Config.scanPlaces { s with
      eng := { s.eng with epoch := (scanOf r.data).epoch }, scan := some (scanOf r.data) } := by
  rw [State.recoverReadReturned, if_neg (by simp [scanning]), h]

/-- What the stored state and cause are to be for the scan to go on (R158). -/
abbrev StoredBad (d : Line) : Prop :=
  3 < lineField d 36 1 ∨ (lineField d 36 1 = 2 ∧ (lineField d 37 1 = 0 ∨ 7 < lineField d 37 1))

theorem scanFailure_memory {r : MemResponse} (failed : r.status ≠ .ok) : scanFailure r = some 2 := by
  simp [scanFailure, responseOk_false failed]

theorem scanFailure_ok {r : MemResponse} (ok : r.status = .ok) : scanFailure r =
    if lineField r.data 32 4 = 0 then some 1 else if StoredBad r.data then some 3 else none := by
  have good : (!responseOk r) = false := by simp [(responseOk_iff r).mpr ok]
  rw [scanFailure, if_neg (by simp [good])]
  simp only [causeOfCode_isNone_iff]
  by_cases epoch : lineField r.data 32 4 = 0
  · rw [if_pos epoch, if_pos epoch]
  · rw [if_neg epoch, if_neg epoch]
    by_cases state : 3 < lineField r.data 36 1
    · rw [if_pos state, if_pos (.inl state)]
    · rw [if_neg state]
      exact ite_congr (propext ⟨.inr, fun h => h.resolve_left state⟩) (fun _ => rfl) fun _ => rfl

theorem failScan_hold (s : State) (result : Nat) :
    (s.failScan result).hold = { s.hold with queue := decidableNow [.engine, .slot, .space] s.hold.queue } :=
  enterOff_hold { s.emptyJournal with eng := { s.eng with cause := none, pendingTarget := none }, scan := none }

/-- Settles O51, by the four rows of R158 and the reads of the seek. -/
theorem recoverControlReadResponse : Obligations.RecoverControlReadResponse := by
  intro r s q hr settled issued owner scanning e state cause v start bad fails
  have delivered : (s.taking r.tag).deliver q r = (s.taking r.tag).recoverReadReturned r := by rw [State.deliver, owner]
  have failed {result : Nat} (h : scanFailure r = some result) : fails result := by
    refine ⟨_, exec_delivered rfl hr issued (delivered.trans (recoverReadReturned_failed scanning h)), fun empty => ?_, rfl, rfl, rfl,
      rfl, rfl, rfl, rfl, rfl, failScan_hold .., rfl, rfl, rfl, rfl, rfl, fun enabled room => ?_⟩
    · have none : ((s.taking r.tag).failScan result).hold = { queue := [], waiting := none } :=
        (failScan_hold ..).trans (congrArg (fun h : Hold =>
          ({ h with queue := decidableNow [.engine, .slot, .space] h.queue } : Hold)) empty)
      exact finish_of_empty none (by simp [State.failScan]) (by simp [State.failScan])
    · have raised := failScan_port (s.taking r.tag) result
      rw [append_queued (by exact enabled) (by exact room)] at raised
      exact (congrArg Port.events raised :)
  refine ⟨fun memory => failed (scanFailure_memory memory), fun ok zero => failed ?_, fun ok epoch wrong => failed ?_,
    fun ok epoch right => ?_⟩
  · rw [scanFailure_ok ok, if_pos zero]
  · rw [scanFailure_ok ok, if_neg epoch, if_pos wrong]
  · have reads := recoverReadReturned_ok (s := s.taking r.tag) scanning (by rw [scanFailure_ok ok, if_neg epoch, if_neg right])
    rw [readScan_eq Config.scanPlaces _ (c := scanOf r.data) rfl rfl (Nat.le_refl 8), slotReads_eq] at reads
    have ended := exec_delivered (c := .recoverControlReadResponse r) rfl hr issued (delivered.trans reads)
    refine ⟨_, _, ended.trans (congrArg _ (finish_of_same settled rfl ?quiesce ?reset)), rfl, rfl, rfl, rfl, rfl, rfl, rfl, rfl, rfl, rfl, rfl, rfl, rfl, rfl, rfl, ?places, rfl, rfl, rfl, rfl, rfl, rfl, rfl,
      rfl, rfl, rfl, rfl, ?down⟩
    case quiesce => simp [State.quiesceDue, State.taking, scanning]
    case reset => simp [State.resetDue, State.taking, scanning]
    case places => rfl
    case down => exact slotReads_down_congr rfl rfl rfl ..

/-! ## The view reader -/

theorem wakeEntries_place (q : List Entry) : wakeEntries (fun w => decide (w = .place)) q = decidableNow [.place] q :=
  List.map_congr_left fun e _ => ite_congr (by simp) (fun _ => rfl) fun _ => rfl

/-- Entries that wait for none of the reasons stay as they are. -/
theorem decidableNow_of_none {l : List Wait} {q : List Entry} (h : ∀ e ∈ q, e.wait ∉ l) : decidableNow l q = q :=
  (List.map_congr_left fun e he => if_neg (h e he)).trans (List.map_id' q)

/-- The oldest of the entries that become decidable is decided first. -/
theorem find_decidableNow {l : List Wait} {a b : List Entry} {e : Entry} (woken : e.wait ∈ l) (earlier : ∀ y ∈ a, y.wait ∉ l)
    (quiet : (a ++ e :: b).find? (fun y => decide (y.wait = .ready)) = none) :
    (decidableNow l (a ++ e :: b)).find? (fun y => decide (y.wait = .ready)) = some { e with wait := .ready } := by
  have split : decidableNow l (a ++ e :: b) = a ++ { e with wait := .ready } :: decidableNow l b := by
    rw [decidableNow, List.map_append, List.map_cons, if_pos woken]
    exact congrArg (· ++ _) (decidableNow_of_none earlier)
  rw [List.find?_append, Option.or_eq_none_iff] at quiet
  rw [split, List.find?_append, quiet.1]
  simp

theorem viewReturned_eq {s : State} {r : MemResponse} {p : ViewPlace} (found : (s.views.find? fun x => x.internalTag = r.tag) = some p)
    {f : State} (place : f = { s with
      views := s.views.filter fun x => x.internalTag ≠ r.tag
      hold := { s.hold with queue := decidableNow [.place] s.hold.queue } }) :
    s.viewReturned r = if responseOk r then f.answer p.tag .ok (some (selected p.mask r.data)) else f.answer p.tag .memError none := by
  rw [State.viewReturned, found, place, ← wakeEntries_place]
  dsimp only
  split <;> rfl

/-- Settles O52, by the status of the read; the place it frees is offered to the entries that wait for one. -/
theorem viewReaderResponse : Obligations.ViewReaderResponse := by
  intro r s q p hr settled issued owner running found f
  have delivered : (s.taking r.tag).deliver q r = (s.taking r.tag).viewReturned r := by rw [State.deliver, owner]
  have answered := viewReturned_eq (s := s.taking r.tag) found (f := f) rfl
  obtain ⟨up, answer⟩ : ∃ u, (s.taking r.tag).viewReturned r = { f with up := u } := by
    rw [answered]
    split <;> exact ⟨_, rfl⟩
  refine ⟨_, exec_delivered rfl hr issued delivered, fun none => ?quiet, fun a e b split place earlier => ?first,
    fun ok => ⟨selected p.mask r.data, ?ok, fun j _ => lineByte_selected p.mask r.data j⟩, fun failed => ?failed⟩
  case quiet =>
    have hold : ({ f with up := up } : State).hold = s.hold :=
      congrArg (fun q => ({ s.hold with queue := q } : Hold)) (decidableNow_of_none (by simpa using none))
    rw [answer]
    exact finish_of_settled (settled_of_same settled hold rfl rfl running)
  case first =>
    have quiet := settled.ready
    rw [State.firstReady, split] at quiet
    rw [answer]
    show (decidableNow [.place] s.hold.queue).find? _ = _
    rw [split]
    exact find_decidableNow (by simp [place]) (by simpa using earlier) quiet
  case ok => rw [answered, if_pos ((responseOk_iff r).mpr ok)]
  case failed => rw [answered, if_neg (by simp [responseOk_false failed])]

end Sys2Proof.Machine
end


section
/-! SUPPORT. The fields of the control-block line and of a record's header (R3 to R6, R106, R107). -/

namespace Sys2Proof.Machine

/-! ## Lines made of fields -/

/-- A line that holds a list of fields, each an offset, a number of bytes and a value. -/
def fieldsLine (l : List (Nat × Nat × Nat)) : Line := l.foldr (fun f x => fieldLine f.1 f.2.1 f.2.2 ||| x) 0

/-- No field of the list has a byte of the n bytes from `off` up. -/
def fieldsClear (l : List (Nat × Nat × Nat)) (off n : Nat) : Bool := l.all fun f => decide (f.1 + f.2.1 ≤ off ∨ off + n ≤ f.1)

theorem testBit_lineField (l : Line) (off n i : Nat) :
    (lineField l off n).testBit i = (decide (i < 8 * n) && l.getLsbD (8 * off + i)) := by
  rw [lineField, ← BitVec.getLsbD, BitVec.getLsbD_extractLsb']

theorem lineField_eq_iff (l m : Line) (off n : Nat) :
    lineField l off n = lineField m off n ↔ ∀ i, i < 8 * n → l.getLsbD (8 * off + i) = m.getLsbD (8 * off + i) := by
  constructor
  · intro h i hi
    have bit := congrArg (Nat.testBit · i) h
    simpa [testBit_lineField, hi, -BitVec.getLsbD_eq_getElem] using bit
  · intro h
    refine Nat.eq_of_testBit_eq fun i => ?_
    rw [testBit_lineField, testBit_lineField]
    by_cases hi : i < 8 * n
    · rw [h i hi]
    · simp [hi]

theorem getLsbD_fieldsLine_cons (f : Nat × Nat × Nat) (l : List (Nat × Nat × Nat)) (k : Nat) :
    (fieldsLine (f :: l)).getLsbD k = ((fieldLine f.1 f.2.1 f.2.2).getLsbD k || (fieldsLine l).getLsbD k) := BitVec.getLsbD_or

theorem getLsbD_fieldsLine_append (a b : List (Nat × Nat × Nat)) (k : Nat) :
    (fieldsLine (a ++ b)).getLsbD k = ((fieldsLine a).getLsbD k || (fieldsLine b).getLsbD k) := by
  induction a with
  | nil => simp [fieldsLine]
  | cons f a ih => rw [List.cons_append, getLsbD_fieldsLine_cons, getLsbD_fieldsLine_cons, ih, Bool.or_assoc]

/-- Bytes that no field has are 0. -/
theorem getLsbD_of_clear {l : List (Nat × Nat × Nat)} {off n : Nat} (clear : fieldsClear l off n = true) {i : Nat} (hi : i < 8 * n) :
    (fieldsLine l).getLsbD (8 * off + i) = false := by
  induction l with
  | nil => simp [fieldsLine]
  | cons f l ih =>
    obtain ⟨own, rest⟩ := (Bool.and_eq_true _ _).mp clear
    have apart := of_decide_eq_true own
    rw [getLsbD_fieldsLine_cons, ih rest, Bool.or_false, getLsbD_fieldLine]
    rcases apart with below | above
    · have : ¬ 8 * off + i - 8 * f.1 < 8 * f.2.1 := by omega
      simp [this]
    · have : ¬ 8 * f.1 ≤ 8 * off + i := by omega
      simp [this]

theorem lineField_of_clear {l : List (Nat × Nat × Nat)} {off n : Nat} (clear : fieldsClear l off n = true) :
    lineField (fieldsLine l) off n = 0 := by
  refine Nat.eq_of_testBit_eq fun i => ?_
  rw [testBit_lineField, Nat.zero_testBit, Bool.and_eq_false_imp]
  exact fun hi => getLsbD_of_clear clear (of_decide_eq_true hi)

/-- A field that no other overlaps is read back. -/
theorem lineField_fieldsLine {l : List (Nat × Nat × Nat)} (i : Nat) {off n v : Nat} (hi : l[i]? = some (off, n, v))
    (ahead : fieldsClear (l.take i) off n = true) (behind : fieldsClear (l.drop (i + 1)) off n = true) (fits : off + n ≤ 64)
    (hv : v < 2 ^ (8 * n)) : lineField (fieldsLine l) off n = v := by
  obtain ⟨h, entry⟩ := List.getElem?_eq_some_iff.mp hi
  have split : l = l.take i ++ (off, n, v) :: l.drop (i + 1) := by
    rw [← entry, ← List.drop_eq_getElem_cons h, List.take_append_drop]
  refine Nat.eq_of_testBit_eq fun b => ?_
  rw [testBit_lineField]
  by_cases hb : b < 8 * n
  · rw [split, getLsbD_fieldsLine_append, getLsbD_fieldsLine_cons, getLsbD_of_clear ahead hb, getLsbD_of_clear behind hb, getLsbD_fieldLine]
    simp [hb, show 8 * off + b < 512 by omega]
  · have high : v < 2 ^ b := Nat.lt_of_lt_of_le hv (Nat.pow_le_pow_right (by decide) (Nat.le_of_not_lt hb))
    rw [Nat.testBit_lt_two_pow high]
    simp [hb]

/-! ## The status -/

theorem getLsbD_statusMask (j : Nat) (h : j < 64) : statusMask.getLsbD j = decide (24 ≤ j ∧ j < 48) := by
  revert j; decide

/-- The fields of the status (R106). -/
def State.statusFields (s : State) : List (Nat × Nat × Nat) :=
  [(24, 8, s.ring.frontier), (32, 4, s.eng.epoch.toNat), (36, 1, s.statusCodes.1), (37, 1, s.statusCodes.2.1), (40, 8, s.statusCodes.2.2)]

theorem statusValue_eq (s : State) : s.statusValue = fieldsLine s.statusFields := by
  simp [State.statusValue, State.statusFields, fieldsLine, BitVec.or_assoc]

/-- In bytes 24 to 47 the written line holds the status (R106). -/
theorem lineField_statusLine (s : State) {off n : Nat} (low : 24 ≤ off) (high : off + n ≤ 48) :
    lineField s.statusLine off n = lineField (fieldsLine s.statusFields) off n := by
  rw [lineField_eq_iff, ← statusValue_eq]
  intro i hi
  have inside : statusMask.getLsbD ((8 * off + i) / 8) = true := by
    rw [getLsbD_statusMask _ (by omega)]
    exact decide_eq_true ⟨by omega, by omega⟩
  have below : (8 * off + i) / 8 < 64 := by omega
  simp [State.statusLine, getLsbD_selected, inside, below, -BitVec.getLsbD_eq_getElem]

/-- The rows of R107. -/
theorem statusCodes_rows (s : State) :
    (s.eng.state = .closing → s.statusCodes = (0, 0, 0)) ∧ (s.eng.state = .opening → s.statusCodes = (1, 0, 0)) ∧
    (s.eng.state ≠ .closing → s.eng.state ≠ .opening →
      (∀ c, s.eng.cause = some c → s.statusCodes = (2, c.code, 0)) ∧
      (s.eng.cause = none →
        (∀ p, s.eng.state = .rolling → s.replay = some p → s.statusCodes = (3, 0, p.target)) ∧
        (∀ m, s.eng.state ≠ .rolling → s.eng.pendingTarget = some m → s.statusCodes = (3, 0, m)) ∧
        (s.eng.state ≠ .rolling → s.eng.pendingTarget = none → s.statusCodes = (1, 0, 0)))) := by
  refine ⟨fun closing => by simp [State.statusCodes, closing], fun opening => by simp [State.statusCodes, opening],
    fun open_ live => ⟨fun c cause => by simp [State.statusCodes, open_, live, cause], fun sound => ⟨fun p rolling unit => ?_,
      fun m other target => by simp [State.statusCodes, open_, live, sound, other, target],
      fun other target => by simp [State.statusCodes, open_, live, sound, other, target]⟩⟩⟩
  simp [State.statusCodes, rolling, sound, unit]

theorem causeCode_lt_256 (c : Cause) : c.code < 256 := by cases c <;> decide

/-- The codes fit their bytes. -/
theorem statusCodes_lt {s : State} (target : ∀ m, s.eng.pendingTarget = some m → m < 2 ^ 64)
    (unit : ∀ p, s.replay = some p → p.target < 2 ^ 64) :
    s.statusCodes.1 < 256 ∧ s.statusCodes.2.1 < 256 ∧ s.statusCodes.2.2 < 2 ^ 64 := by
  have rolled : (s.replay.map Replay.target).getD 0 < 2 ^ 64 := by
    cases h : s.replay with
    | none => simp
    | some p => exact unit p h
  unfold State.statusCodes
  split
  · decide
  split
  · decide
  split
  · exact ⟨(by decide : 2 < 256), causeCode_lt_256 _, Nat.two_pow_pos 64⟩
  split
  · exact ⟨(by decide : 3 < 256), (by decide : 0 < 256), rolled⟩
  split
  · exact ⟨(by decide : 3 < 256), (by decide : 0 < 256), target _ ‹_›⟩
  · decide

/-- Settles O55, by the fields of the status value under the mask. -/
theorem statusFormat : Obligations.StatusFormat := by
  intro s frontier target unit
  obtain ⟨state, cause, rolled⟩ := statusCodes_lt target unit
  have field {off n v : Nat} (i : Nat) (hi : s.statusFields[i]? = some (off, n, v))
      (ahead : fieldsClear (s.statusFields.take i) off n = true) (behind : fieldsClear (s.statusFields.drop (i + 1)) off n = true)
      (low : 24 ≤ off) (high : off + n ≤ 48) (hv : v < 2 ^ (8 * n)) : lineField s.statusLine off n = v :=
    (lineField_statusLine s low high).trans (lineField_fieldsLine i hi ahead behind (by omega) hv)
  refine ⟨getLsbD_statusMask, field 0 rfl rfl rfl (by decide) (by decide) frontier,
    field 1 rfl rfl rfl (by decide) (by decide) s.eng.epoch.isLt,
    (lineField_statusLine s (by decide) (by decide)).trans (lineField_of_clear rfl), ?_⟩
  rw [field 2 rfl rfl rfl (by decide) (by decide) state, field 3 rfl rfl rfl (by decide) (by decide) cause,
    field 4 rfl rfl rfl (by decide) (by decide) rolled]
  exact statusCodes_rows s

/-! ## Records -/

/-- The fields of a record's header (R4). -/
def Header.fields (h : Header) : List (Nat × Nat × Nat) :=
  [(0, 1, h.kind.code), (1, 1, h.dup.toNat), (2, 1, h.source.code), (3, 1, h.region), (4, 4, h.epoch.toNat), (8, 8, h.seq),
    (16, 8, h.line.toNat), (24, 4, h.tag.toNat), (28, 8, h.segmentStart)]

theorem headerBody_eq (h : Header) : headerBody h = fieldsLine h.fields := by
  simp [headerBody, Header.fields, fieldsLine, BitVec.or_assoc]

theorem headerLine_eq (h : Header) (d : Line) :
    headerLine h d = fieldsLine (h.fields ++ [(60, 4, (recordCheck h.kind.code (headerBody h) d).toNat)]) := by
  simp [headerLine, headerBody, Header.fields, fieldsLine, BitVec.or_assoc]

/-- The check leaves the bytes that it covers (R5). -/
theorem lineByte_headerLine (h : Header) (d : Line) {j : Nat} (hj : j < 60) : lineByte (headerLine h d) j = lineByte (headerBody h) j := by
  refine BitVec.eq_of_getLsbD_eq fun b hb => ?_
  rw [getLsbD_lineByte, getLsbD_lineByte, headerLine_eq, headerBody_eq, getLsbD_fieldsLine_append]
  have clear : fieldsClear [(60, 4, (recordCheck h.kind.code (fieldsLine h.fields) d).toNat)] j 1 = true := by
    simp [fieldsClear]; omega
  rw [getLsbD_of_clear clear (by omega), Bool.or_false]

theorem lineBytes_headerLine (h : Header) (d : Line) : lineBytes (headerLine h d) 60 = lineBytes (headerBody h) 60 :=
  List.map_congr_left fun _ hj => lineByte_headerLine h d (List.mem_range.mp hj)

theorem recordCheck_headerLine (h : Header) (d : Line) (k : Nat) :
    recordCheck k (headerLine h d) d = recordCheck k (headerBody h) d := by
  rw [recordCheck, lineBytes_headerLine]; rfl

theorem kindCode_change_iff (k : RecordKind) : k.code = RecordKind.change.code ↔ k = .change := by cases k <;> decide

theorem recordCheck_kind (h : Header) (d : Line) : recordCheck h.kind.code (headerBody h) d =
    crc32 ((List.range 60).map (lineByte (headerLine h d)) ++ if h.kind = .change then (List.range 64).map (lineByte d) else []) := by
  rw [← recordCheck_headerLine, recordCheck]
  simp only [kindCode_change_iff]
  rfl

theorem recordKindOfCode_code (k : RecordKind) : recordKindOfCode k.code = some k := by cases k <;> rfl

/-- Settles O56: each field of the header is read back, and the check of what is read is the check written. -/
theorem recordFormat : Obligations.RecordFormat := by
  intro h d seq start region other l
  have field {off n v : Nat} (i : Nat)
      (hi : (h.fields ++ [(60, 4, (recordCheck h.kind.code (headerBody h) d).toNat)])[i]? = some (off, n, v))
      (ahead : fieldsClear ((h.fields ++ [(60, 4, (recordCheck h.kind.code (headerBody h) d).toNat)]).take i) off n = true)
      (behind : fieldsClear ((h.fields ++ [(60, 4, (recordCheck h.kind.code (headerBody h) d).toNat)]).drop (i + 1)) off n = true)
      (fits : off + n ≤ 64) (hv : v < 2 ^ (8 * n)) : lineField l off n = v :=
    (congrArg (lineField · off n) (headerLine_eq h d)).trans (lineField_fieldsLine i hi ahead behind fits hv)
  have kindLt : h.kind.code < 256 := by cases h.kind <;> decide
  have dupLt : h.dup.toNat < 256 := by cases h.dup <;> decide
  have kind := field 0 rfl rfl rfl (by decide) kindLt
  have epoch := field 4 rfl rfl rfl (by decide) h.epoch.isLt
  have seqs := field 5 rfl rfl rfl (by decide) seq
  have check := field 9 rfl rfl rfl (by decide) (recordCheck h.kind.code (headerBody h) d).isLt
  refine ⟨kind.trans (by cases h.kind <;> rfl), (field 1 rfl rfl rfl (by decide) dupLt).trans (by cases h.dup <;> rfl),
    (field 2 rfl rfl rfl (by decide) (sourceCode_lt other)).trans (by cases h.source <;> rfl),
    field 3 rfl rfl rfl (by decide) (Nat.lt_trans region (by decide)), epoch, seqs,
    field 6 rfl rfl rfl (by decide) (Nat.lt_trans h.line.isLt (by decide)), field 7 rfl rfl rfl (by decide) h.tag.isLt,
    field 8 rfl rfl rfl (by decide) start, ?unused, ?check, fun q e => ?valid⟩
  case unused => exact (congrArg (lineField · 36 24) (headerLine_eq h d)).trans (lineField_of_clear rfl)
  case check => rw [check, recordCheck_kind]
  case valid =>
    have kinds : readKind l = h.kind.code := kind
    have epochs : readEpoch l = h.epoch := by rw [readEpoch, epoch, BitVec.ofNat_toNat, BitVec.setWidth_eq]
    have checks : (recordCheck (readKind l) l d).toNat = lineField l 60 4 := by rw [kinds, recordCheck_headerLine, check]
    rw [recordValid, recordIntact, kinds, recordKindOfCode_code, epochs, ← kinds, decide_eq_true checks, readSeq, seqs]
    rw [Option.isSome_some, Bool.true_and, Bool.and_true, Bool.and_eq_true, decide_eq_true_iff, decide_eq_true_iff]
    exact ⟨fun ⟨e, q⟩ => ⟨q.symm, e.symm⟩, fun ⟨q, e⟩ => ⟨e.symm, q.symm⟩⟩

end Sys2Proof.Machine
end


section
/-! SUPPORT. Held entries that are forwarded without a decision: what is handed, what leaves the queue, which slots are freed, and which
entries that makes decidable (R65, R67, R71, R74, R87). -/

namespace Sys2Proof.Machine

/-! ## Changes of reasons that leave the LINE entries alone -/

/-- A change of reasons that concerns no LINE entry and no entry to be decided, and keeps every request. -/
structure LineFree (g : Entry → Entry) : Prop where
  req : ∀ e, (g e).req = e.req
  line : ∀ e, e.wait = .line → g e = e
  other : ∀ e, e.wait ≠ .line → (g e).wait ≠ .line
  ready : ∀ r, g { req := r, wait := .ready } = { req := r, wait := .ready }

theorem wakeLine_map {g : Entry → Entry} (h : LineFree g) (x : Addr) (q : List Entry) : wakeLine x (q.map g) = (wakeLine x q).map g := by
  induction q with
  | nil => rfl
  | cons e es ih =>
    rw [List.map_cons, wakeLine, wakeLine, h.req, ih]
    by_cases own : e.req.line = x
    · rw [if_pos own, if_pos own, List.map_cons]
      by_cases line : e.wait = .line
      · rw [h.line e line, if_pos line, h.ready]
      · rw [if_neg line, if_neg (h.other e line)]
    · rw [if_neg own, if_neg own, List.map_cons]

/-- An entry leaves the queue, and the next entry for its line becomes decidable (R65, R67). -/
def leaveQueue (r : Request) (q : List Entry) : List Entry := wakeLine r.line (q.filter fun e => e.req.tag ≠ r.tag)

theorem leaveQueue_map {g : Entry → Entry} (h : LineFree g) (r : Request) (q : List Entry) :
    leaveQueue r (q.map g) = (leaveQueue r q).map g := by
  rw [leaveQueue, leaveQueue, List.filter_map, wakeLine_map h]
  refine congrArg (fun l => (wakeLine r.line l).map g) (List.filter_congr fun e _ => ?_)
  simp [h.req]

theorem issuedFrom_cons (e : Entry) (l q : List Entry) : issuedFrom (e :: l) q = issuedFrom l (leaveQueue e.req q) := rfl

theorem issuedFrom_map {g : Entry → Entry} (h : LineFree g) (l q : List Entry) : issuedFrom l (q.map g) = (issuedFrom l q).map g := by
  induction l generalizing q with
  | nil => rfl
  | cons e l ih => rw [issuedFrom_cons, issuedFrom_cons, leaveQueue_map h, ih]

theorem mem_wakeLine {x : Addr} {q : List Entry} {e : Entry} (h : e ∈ wakeLine x q) : ∃ k ∈ q, e.req = k.req ∧ (e = k ∨ e.wait = .ready) := by
  induction q with
  | nil => cases h
  | cons y ys ih =>
    rw [wakeLine] at h
    split at h
    · rcases List.mem_cons.mp h with rfl | later
      · refine ⟨y, List.mem_cons_self, ?_⟩
        split
        · exact ⟨rfl, .inr rfl⟩
        · exact ⟨rfl, .inl rfl⟩
      · exact ⟨e, List.mem_cons_of_mem y later, rfl, .inl rfl⟩
    · rcases List.mem_cons.mp h with rfl | later
      · exact ⟨e, List.mem_cons_self, rfl, .inl rfl⟩
      · obtain ⟨k, hk, same⟩ := ih later
        exact ⟨k, List.mem_cons_of_mem y hk, same⟩

/-- What is left of the queue once the entries of l have left it. -/
theorem mem_issuedFrom {l q : List Entry} {e : Entry} (h : e ∈ issuedFrom l q) :
    ∃ k ∈ q, e.req = k.req ∧ (e = k ∨ e.wait = .ready) ∧ ∀ x ∈ l, k.req.tag ≠ x.req.tag := by
  induction l generalizing q with
  | nil => exact ⟨e, h, rfl, .inl rfl, by simp⟩
  | cons y l ih =>
    obtain ⟨m, hm, req, same, others⟩ := ih h
    obtain ⟨k, hk, req', same'⟩ := mem_wakeLine hm
    obtain ⟨listed, apart⟩ := List.mem_filter.mp hk
    refine ⟨k, listed, req.trans req', ?_, fun x hx => ?_⟩
    · rcases same with rfl | ready
      · exact same'
      · exact .inr ready
    · rcases List.mem_cons.mp hx with rfl | later
      · exact of_decide_eq_true apart
      · rw [← req']; exact others x later

/-! ## Slots that are freed -/

/-- SLOT entries become decidable, or stay as they are. -/
def offerSlots (b : Bool) (q : List Entry) : List Entry := if b then decidableNow [.slot] q else q

/-- Freeing the slots that `p` does not keep makes the SLOT entries decidable (R65). -/
def State.frees (s : State) (p : Slot → Bool) : Bool :=
  (decide (s.eng.state = .active) || decide (s.eng.state = .stalled)) && s.slots.any fun j => !p j

theorem wakeEntries_slot (q : List Entry) : wakeEntries (fun w => decide (w = .slot)) q = decidableNow [.slot] q :=
  List.map_congr_left fun e _ => ite_congr (by simp) (fun _ => rfl) fun _ => rfl

theorem slotFreed_eq (s : State) : s.slotFreed = { s with hold := { s.hold with
    queue := offerSlots (decide (s.eng.state = .active) || decide (s.eng.state = .stalled)) s.hold.queue } } := by
  rw [State.slotFreed, offerSlots, ← wakeEntries_slot]
  by_cases going : s.eng.state = .active ∨ s.eng.state = .stalled
  · have flag : (decide (s.eng.state = .active) || decide (s.eng.state = .stalled)) = true := by simpa using going
    rw [if_pos going, if_pos flag]; rfl
  · have flag : ¬ (decide (s.eng.state = .active) || decide (s.eng.state = .stalled)) = true := by simpa using going
    rw [if_neg going, if_neg flag]

theorem keepSlots_eq (s : State) (p : Slot → Bool) : s.keepSlots p = { s with
    slots := s.slots.filter p, hold := { s.hold with queue := offerSlots (s.frees p) s.hold.queue } } := by
  have shorter : (s.slots.filter p).length < s.slots.length ↔ (s.slots.any fun j => !p j) = true := by
    rw [List.length_filter_lt_length_iff_exists]; simp
  rw [State.keepSlots, State.frees]
  by_cases fewer : (s.slots.any fun j => !p j) = true
  · rw [fewer, Bool.and_true]
    exact (if_pos (shorter.mpr fewer)).trans (slotFreed_eq _)
  · rw [Bool.eq_false_iff.mpr fewer, Bool.and_false]
    exact if_neg (mt shorter.mp fewer)

/-- The reason of one entry, when SLOT entries are offered. -/
def Entry.offered (b : Bool) (e : Entry) : Entry := if b = true ∧ e.wait = .slot then { e with wait := .ready } else e

theorem offerSlots_eq (b : Bool) (q : List Entry) : offerSlots b q = q.map (Entry.offered b) := by
  cases b
  · exact (List.map_id'' (fun e => if_neg (fun h => by cases h.1)) q).symm
  · exact List.map_congr_left fun e _ => ite_congr (by simp) (fun _ => rfl) fun _ => rfl

theorem offered_lineFree (b : Bool) : LineFree (Entry.offered b) where
  req e := by unfold Entry.offered; split <;> rfl
  line e h := if_neg (fun ⟨_, slot⟩ => by rw [h] at slot; cases slot)
  other e h := by
    unfold Entry.offered
    split
    · exact nofun
    · exact h
  ready r := if_neg (fun ⟨_, slot⟩ => by cases slot)

theorem offerSlots_offerSlots (a b : Bool) (q : List Entry) : offerSlots b (offerSlots a q) = offerSlots (a || b) q := by
  rw [offerSlots_eq, offerSlots_eq, offerSlots_eq, List.map_map]
  refine List.map_congr_left fun e _ => ?_
  cases a <;> cases b <;> by_cases slot : e.wait = .slot <;> simp [Entry.offered, slot]

theorem issuedFrom_offerSlots (b : Bool) (l q : List Entry) : issuedFrom l (offerSlots b q) = offerSlots b (issuedFrom l q) := by
  rw [offerSlots_eq, offerSlots_eq, issuedFrom_map (offered_lineFree b)]

/-- The slots that stay when the entries of l are issued: those that protected their writes, with seqs that F has passed, are freed
(R71, R74). -/
def keptBy (f : Nat) (l : List Entry) (j : Slot) : Bool := l.all fun e => decide (j.held ≠ some e.req.tag) || decide (f ≤ j.header.seq)

/-- The entries of l are issued, one after another. -/
def State.issuedAll (s : State) (l : List Entry) : State := { s with
  slots := s.slots.filter (keptBy s.ring.frontier l)
  hold := { s.hold with queue := offerSlots (s.frees (keptBy s.ring.frontier l)) (issuedFrom l s.hold.queue) } }

theorem entryIssued_eq (s : State) (e : Entry) : s.entryIssued e.req = s.issuedAll [e] := by
  rw [State.entryIssued, keepSlots_eq]
  have single : (fun j : Slot => decide (j.held ≠ some e.req.tag) || decide (s.ring.frontier ≤ j.header.seq)) =
      keptBy s.ring.frontier [e] := funext fun j => (Bool.and_true _).symm
  rw [single]; rfl

/-- Slots freed in two turns are freed as in one (R65). -/
theorem frees_and {s t : State} {p q : Slot → Bool} (eng : t.eng = s.eng) (slots : t.slots = s.slots.filter p) :
    (s.frees p || t.frees q) = s.frees fun j => q j && p j := by
  rw [State.frees, State.frees, State.frees, eng, slots, ← Bool.and_or_distrib_left]
  refine congrArg _ ?_
  rw [Bool.eq_iff_iff]
  simp only [Bool.or_eq_true, List.any_eq_true, List.mem_filter, Bool.not_eq_true', Bool.and_eq_false_iff]
  constructor
  · rintro (⟨j, hj, gone⟩ | ⟨j, ⟨hj, _⟩, gone⟩)
    · exact ⟨j, hj, .inr gone⟩
    · exact ⟨j, hj, .inl gone⟩
  · rintro ⟨j, hj, gone⟩
    by_cases kept : p j = true
    · exact .inr ⟨j, ⟨hj, kept⟩, gone.resolve_right (by simp [kept])⟩
    · exact .inl ⟨j, hj, Bool.eq_false_iff.mpr kept⟩

theorem issuedAll_cons (s : State) (e : Entry) (l : List Entry) : (s.issuedAll [e]).issuedAll l = s.issuedAll (e :: l) := by
  have both : (fun j => keptBy s.ring.frontier l j && keptBy s.ring.frontier [e] j) = keptBy s.ring.frontier (e :: l) :=
    funext fun j => by simp [keptBy, Bool.and_comm]
  have slots : (s.slots.filter (keptBy s.ring.frontier [e])).filter (keptBy s.ring.frontier l) =
      s.slots.filter (keptBy s.ring.frontier (e :: l)) := by rw [List.filter_filter, both]
  have frees : (s.frees (keptBy s.ring.frontier [e]) || (s.issuedAll [e]).frees (keptBy s.ring.frontier l)) =
      s.frees (keptBy s.ring.frontier (e :: l)) := by
    rw [frees_and (s := s) (t := s.issuedAll [e]) rfl rfl, both]
  have queue : offerSlots ((s.issuedAll [e]).frees (keptBy s.ring.frontier l))
      (issuedFrom l (offerSlots (s.frees (keptBy s.ring.frontier [e])) (issuedFrom [e] s.hold.queue))) =
      offerSlots (s.frees (keptBy s.ring.frontier (e :: l))) (issuedFrom (e :: l) s.hold.queue) := by
    rw [issuedFrom_offerSlots, offerSlots_offerSlots, frees]; rfl
  show ({ s with slots := _, hold := { s.hold with queue := _ } } : State) = { s with slots := _, hold := { s.hold with queue := _ } }
  rw [← slots, ← queue]
  rfl

theorem foldl_entryIssued (l : List Entry) (s : State) : l.foldl (fun u e => u.entryIssued e.req) s = s.issuedAll l := by
  induction l generalizing s with
  | nil =>
    have all : s.slots.filter (keptBy s.ring.frontier []) = s.slots := List.filter_eq_self.mpr fun _ _ => rfl
    have none : s.frees (keptBy s.ring.frontier []) = false := by simp [State.frees, keptBy]
    rw [State.issuedAll, all, none]; rfl
  | cons e l ih => rw [List.foldl_cons, entryIssued_eq, ih, issuedAll_cons]

/-! ## Forwarding without a decision -/

theorem handed_handed (d : DownLink) (l m : List DownRequest) : (d.handed l).handed m = d.handed (l ++ m) := by
  rw [handed_eq, handed_eq, handed_eq, hand_hand]

theorem foldl_handForward (l : List Entry) (s : State) :
    l.foldl (fun t e => t.handForward e.req) s = { s with down := s.down.handed (s.forwardsOf l) } := by
  induction l generalizing s with
  | nil => rw [handed_eq]; exact congrArg (fun d => { s with down := d }) (hand_nil s.down).symm
  | cons e l ih =>
    rw [List.foldl_cons, ih]
    show ({ s with down := ((s.down.hand [s.forwardOf e.req]).handed (s.forwardsOf l)) } : State) = _
    rw [← handed_eq, handed_handed]
    rfl

/-- The reason of an entry that is forwarded and not issued yet (R67). -/
def Entry.markIssue (p : Entry → Bool) (e : Entry) : Entry := if p e then { e with wait := .issue } else e

/-- The entries that `p` names are held RECORD. -/
def NamesRecords (p : Entry → Bool) : Prop := ∀ e, p e = true → ∃ m, e.wait = .record m

theorem markIssue_lineFree {p : Entry → Bool} (h : NamesRecords p) : LineFree (Entry.markIssue p) where
  req e := by unfold Entry.markIssue; split <;> rfl
  line e line := if_neg fun named => by
    obtain ⟨m, record⟩ := h e named
    rw [line] at record; cases record
  other e other := by
    unfold Entry.markIssue
    split
    · exact nofun
    · exact other
  ready r := if_neg fun named => by
    obtain ⟨m, record⟩ := h _ named
    cases record

/-- The named entries have all left the queue once they are issued. -/
theorem issuedFrom_mark {p : Entry → Bool} (h : NamesRecords p) (q : List Entry) :
    (issuedFrom (q.filter p) q).map (Entry.markIssue p) = issuedFrom (q.filter p) q := by
  refine (List.map_congr_left fun e he => if_neg fun named => ?_).trans (List.map_id _)
  obtain ⟨k, hk, -, same, others⟩ := mem_issuedFrom he
  obtain ⟨m, record⟩ := h e named
  have here : e = k := same.resolve_right fun ready => by rw [ready] at record; cases record
  subst here
  exact others e (List.mem_filter.mpr ⟨hk, named⟩) rfl

/-- What the forwarding of the entries that `p` names does, item by item (R67, R71, R74, R87, R177). -/
theorem forwardHeld_eq (s : State) {p : Entry → Bool} (h : NamesRecords p) : s.forwardHeld p =
    let t : State := { s with down := s.down.handed (s.forwardsOf (s.hold.queue.filter p)) }
    if s.issuesAtOnce then t.issuedAll (s.hold.queue.filter p)
    else { t with hold := { s.hold with queue := s.hold.queue.map (Entry.markIssue p) } } := by
  rw [State.forwardHeld]
  simp only [foldl_handForward, foldl_entryIssued]
  show (if s.issuesAtOnce = true then _ else _) = _
  refine ite_congr rfl (fun _ => ?_) fun _ => rfl
  have queue : issuedFrom (s.hold.queue.filter p) (s.hold.queue.map (Entry.markIssue p)) =
      issuedFrom (s.hold.queue.filter p) s.hold.queue := by
    rw [issuedFrom_map (markIssue_lineFree h), issuedFrom_mark h]
  show ({ s with down := _, slots := _, hold := { s.hold with queue := offerSlots _ (issuedFrom _ (s.hold.queue.map (Entry.markIssue p))) } } : State) = _
  rw [queue]
  rfl

end Sys2Proof.Machine
end


section
/-! SUPPORT. Faults on journal traffic: in the journaling states, in QUIESCING, and where the journal is broken already (R76, R77, R78,
R86, R87, R133). -/

namespace Sys2Proof.Machine

/-! ## Entries held RECORD -/

theorem heldRecord_names : NamesRecords Entry.heldRecord := by
  intro e h
  cases wait : e.wait with
  | record m => exact ⟨m, rfl⟩
  | _ => simp [Entry.heldRecord, wait] at h

theorem passedBy_names (f : Nat) : NamesRecords (Entry.passedBy · f) := by
  intro e h
  cases wait : e.wait with
  | record m => exact ⟨m, rfl⟩
  | _ => simp [Entry.passedBy, wait] at h

theorem filter_heldRecord (q : List Entry) : q.filter Entry.heldRecord = recordEntries (fun _ => true) q :=
  List.filter_congr fun e _ => by unfold Entry.heldRecord; split <;> simp_all

theorem filter_passedBy (f : Nat) (q : List Entry) : q.filter (Entry.passedBy · f) = recordEntries (fun m => decide (m < f)) q :=
  List.filter_congr fun e _ => by unfold Entry.passedBy; split <;> simp_all

theorem map_markIssue_heldRecord (q : List Entry) : q.map (Entry.markIssue Entry.heldRecord) = q.map fun e =>
    match e.wait with
    | .record _ => { e with wait := .issue }
    | .line | .engine | .slot | .space | .place | .issue | .ready => e := by
  refine List.map_congr_left fun e _ => ?_
  unfold Entry.markIssue Entry.heldRecord
  cases e.wait <;> rfl

/-! ## Forwarding once the slots are abandoned -/

/-- Abandoned slots protect no write, so none is freed by the forwarding (R86, R87). -/
theorem issuedAll_of_unheld {s : State} (unheld : ∀ j ∈ s.slots, j.held = none) (l : List Entry) :
    s.issuedAll l = { s with hold := { s.hold with queue := issuedFrom l s.hold.queue } } := by
  have kept : ∀ j ∈ s.slots, keptBy s.ring.frontier l j = true := fun j hj => by simp [keptBy, unheld j hj]
  have slots : s.slots.filter (keptBy s.ring.frontier l) = s.slots := List.filter_eq_self.mpr kept
  have none : s.frees (keptBy s.ring.frontier l) = false := by
    rw [State.frees, Bool.and_eq_false_imp]
    exact fun _ => by simpa using kept
  rw [State.issuedAll, slots, none]; rfl

/-- The state after the RECORD entries of a broken journal are forwarded (R87). -/
theorem forwardHeld_broken (s : State) (c : Cause) : (s.breakJournal c).forwardHeld Entry.heldRecord = { s.breakJournal c with
    down := s.down.handed (s.forwardsOf (recordEntries (fun _ => true) s.hold.queue))
    hold := { s.hold with queue :=
      if s.issuesAtOnce then issuedFrom (recordEntries (fun _ => true) s.hold.queue) s.hold.queue
      else s.hold.queue.map (Entry.markIssue Entry.heldRecord) } } := by
  have unheld : ∀ j ∈ abandonSlots s.slots, j.held = none := fun j hj => by
    obtain ⟨k, -, -, rfl⟩ := mem_abandonSlots.mp hj
    rfl
  rw [forwardHeld_eq _ heldRecord_names]
  show (if s.issuesAtOnce = true then _ else _) = _
  cases h : s.issuesAtOnce
  · rw [if_neg (by decide), ← filter_heldRecord]; rfl
  · rw [if_pos rfl, issuedAll_of_unheld (by exact unheld), ← filter_heldRecord]; rfl

/-! ## A fault in QUIESCING -/

/-- The state in which a fault in QUIESCING requests its status write (R87). -/
def State.quiesceBroken (s : State) (c : Cause) : State := ((s.breakJournal c).forwardHeld Entry.heldRecord).raiseBroken c

theorem quiesceFault_eq {s : State} (other : ∀ m, s.eng.action ≠ some (.rollback m)) (c : Cause) :
    s.quiesceFault c = (s.quiesceBroken c).requestStatus false := by
  unfold State.quiesceFault
  split
  · rename_i m h
    exact absurd h (other m)
  all_goals rfl

/-- A fault that records a cause with COMMIT or STOP pending is what R87 makes of a quiescing. -/
theorem quiesceFault_faulted {s : State} (quiescing : s.eng.state = .quiescing) (sound : s.eng.cause = none)
    (other : ∀ m, s.eng.action ≠ some (.rollback m)) (c : Cause) : s.QuiesceFaulted (s.quiesceFault c) c := by
  have before : s.quiesceBroken c = State.raiseBroken { s.breakJournal c with
      down := s.down.handed (s.forwardsOf (recordEntries (fun _ => true) s.hold.queue))
      hold := { s.hold with queue :=
        if s.issuesAtOnce then issuedFrom (recordEntries (fun _ => true) s.hold.queue) s.hold.queue
        else s.hold.queue.map (Entry.markIssue Entry.heldRecord) } } c := by
    rw [State.quiesceBroken, forwardHeld_broken]
  rw [quiesceFault_eq other]
  have line : ((s.quiesceBroken c).requestStatus false).statusLine = (s.quiesceBroken c).statusLine :=
    statusLine_congr (by simp) (by simp) (by simp) (by simp)
  have watch := requestStatus_watch (s.quiesceBroken c)
  have down := requestStatus_handed (s.quiesceBroken c)
  rw [← line] at down
  rw [before] at watch down ⊢
  refine ⟨?eng, journalBroken_of ?ring ?segments ?touch ?slots ?stall ?waiting watch ?port ?rest, ?queue, ?down⟩
  case eng => simp [State.raiseBroken, State.breakJournal, sound]
  case port =>
    rw [(requestStatus_frame _ false).2.2.2.2.2.2.2.2.2.2.2.2.2.2.2.2.1, raiseBroken_port]
    exact congrArg (fun e => s.port.append (s.brokenRecord e c)) quiescing
  case queue =>
    exact (congrArg Hold.queue (requestStatus_frame _ false).2.2.2.2.2.2.2.2.2.2.1).trans
      (ite_congr rfl (fun _ => rfl) fun _ => map_markIssue_heldRecord s.hold.queue)
  case down =>
    cases h : s.watch.outstanding
    · refine ⟨_, down.trans ((if_neg (by simp [State.raiseBroken, State.raise, State.breakJournal, h])).trans (handed_handed ..)), ?_⟩
      rfl
    · refine ⟨[], down.trans ((if_pos (by simp [State.raiseBroken, State.raise, State.breakJournal, h])).trans ?_), rfl⟩
      rw [List.append_nil]
      rfl
  all_goals simp [State.raiseBroken, State.breakJournal]

/-! ## The end of an event that may end quiescing -/

@[simp] theorem endQuiesce_hold (s : State) : s.endQuiesce.hold = s.hold := by
  unfold State.endQuiesce
  split <;> simp [State.openingStep1, State.beginRollback]

/-- With nothing to decide an event ends with the end of a quiescing, if that is due (R132). -/
theorem finish_of_quiet {t : State} (quiet : t.Quiet) (running : t.eng.state ≠ .resetting) : t.finish = t.checkQuiesce := by
  cases due : t.quiesceDue
  · rw [checkQuiesce_of_not_due due]
    exact finish_of_settled ⟨quiet.1, quiet.2, due, by simp [State.resetDue, running]⟩
  · have ends : t.checkQuiesce = t.endQuiesce := if_pos due
    have decided : t.endQuiesce.settle = t.endQuiesce :=
      settle_of_quiet (by simpa [State.firstReady] using quiet.1) (by rw [endQuiesce_hold]; exact quiet.2)
    have aim := endQuiesce_state due
    have live : t.endQuiesce.eng.state ≠ .resetting := fun h => by simp [h] at aim
    rw [State.finish, ends, decided, checkReset_of_not_due (by simp [State.resetDue, live])]

theorem nextEvent_again {t : State} {n : Nat} (event : t.eventNo = n + 1) : State.nextEvent { t with eventNo := n } = t := by
  rw [State.nextEvent, ← event]

/-- QUIESCE_END as its own command does what the end of the event does (log 2). -/
theorem exec_quiesceEnd_again {t : State} {n : Nat} (hr : t.rstn = true) (event : t.eventNo = n + 1) :
    exec .quiesceEnd { t with eventNo := n } = .next t.checkQuiesce := by
  show execQuiesceEnd { t with eventNo := n } = _
  rw [execQuiesceEnd, running_of_high (by exact hr), nextEvent_again event]
  rfl

theorem quiet_of_hold {s t : State} (settled : s.Settled) (hold : t.hold = s.hold) : t.Quiet :=
  ⟨by simpa [State.firstReady, hold] using settled.ready, by rw [hold]; exact settled.waiting⟩

theorem not_ready_of_settled {s : State} (settled : s.Settled) : ∀ e ∈ s.hold.queue, e.wait ≠ .ready := fun e he ready =>
  List.find?_eq_none.mp settled.ready e he (decide_eq_true ready)

/-- A fault in QUIESCING that issues no held entry leaves nothing to decide. -/
theorem State.QuiesceFaulted.quiet {s u t : State} {c : Cause} (h : u.QuiesceFaulted t c) (settled : s.Settled) (hold : u.hold = s.hold)
    (late : u.issuesAtOnce = false ∨ recordEntries (fun _ => true) u.hold.queue = []) : t.Quiet := by
  have waiting : t.hold.waiting = s.hold.waiting := h.journal.waiting.trans (congrArg Hold.waiting hold)
  have shape : ∃ g : Entry → Entry, (∀ e, (g e).wait = .ready → e.wait = .ready) ∧ t.hold.queue = s.hold.queue.map g := by
    cases atOnce : u.issuesAtOnce
    · refine ⟨Entry.markIssue Entry.heldRecord, fun e ready => ?_, ?_⟩
      · unfold Entry.markIssue at ready
        split at ready
        · cases ready
        · exact ready
      · rw [← hold]
        exact (h.queue.trans (if_neg (by simp [atOnce]))).trans (map_markIssue_heldRecord u.hold.queue).symm
    · have empty := late.resolve_left (by simp [atOnce])
      refine ⟨id, fun _ => id, ?_⟩
      rw [h.queue, if_pos atOnce, empty, hold, List.map_id]
      rfl
  obtain ⟨g, woken, queue⟩ := shape
  refine ⟨?_, ?_⟩
  · rw [State.firstReady, queue, List.find?_eq_none]
    intro e he ready
    obtain ⟨k, hk, rfl⟩ := List.mem_map.mp he
    exact not_ready_of_settled settled k hk (woken k (of_decide_eq_true ready))
  · rw [waiting, queue, List.length_map]
    exact settled.waiting

/-! ## What a fault does -/

theorem journalFault_going {s : State} (h : s.eng.state ∉ [EngineState.broken, .resetting, .quiescing]) (c : Cause) :
    s.journalFault c = s.enterBroken c := by
  simp only [List.mem_cons, List.not_mem_nil, or_false, not_or] at h
  obtain ⟨whole, live, other⟩ := h
  rw [State.journalFault, if_neg (by simp [whole, live]), if_neg other]

theorem journalFault_quiescing {s : State} (quiescing : s.eng.state = .quiescing) (sound : s.eng.cause = none) (c : Cause) :
    s.journalFault c = s.quiesceFault c := by
  rw [State.journalFault, if_neg (by simp [quiescing]), if_pos quiescing, if_neg (by simp [sound])]

theorem journalFault_known {s : State} (h : s.eng.state = .broken ∨ (s.eng.state = .quiescing ∧ s.eng.cause ≠ none)) (c : Cause) :
    s.journalFault c = s := by
  rcases h with broken | ⟨quiescing, known⟩
  · exact if_pos (.inl broken)
  · rw [State.journalFault, if_neg (by simp [quiescing]), if_pos quiescing, if_pos (Option.isSome_iff_ne_none.mpr known)]

/-- A fault in QUIESCING abandons a pending rollback and breaks the journal (R133). -/
theorem quiesceFault_rollback {s : State} {m : Nat} (pending : s.eng.action = some (.rollback m)) (c : Cause) :
    s.quiesceFault c = (State.enterBroken { s with eng := { s.eng with action := none } } c).raise .rollbackDone (some m) (some 0)
      (some 2) := by
  rw [State.quiesceFault, pending]; rfl

/-! ## The event of a fault -/

/-- A response whose delivery notes something in the slots and then faults, in a settled state. -/
structure Faults (c : Instr) (s u v : State) : Prop where
  settled : s.Settled
  running : s.eng.state ≠ .resetting
  exec : exec c s = .next v.finish
  hold : u.hold = s.hold
  eng : u.eng = s.eng
  down : u.issuesAtOnce = s.issuesAtOnce
  event : u.eventNo = s.eventNo + 1
  high : u.rstn = true
  slots : u.slots.isEmpty = s.slots.isEmpty

theorem Faults.breaks {c : Instr} {s u : State} {k : Cause} (h : Faults c s u (u.enterBroken k)) :
    ∃ t : State, Sys2Proof.Machine.exec c s = .next t.finish ∧ (s.hold = { queue := [], waiting := none } → t.finish = t) ∧
      u.BrokenFrom t k :=
  ⟨_, h.exec, fun empty => finish_of_empty (enterBroken_hold_empty (h.hold.trans empty) k) (by simp) (by simp),
    enterBroken_brokenFrom u k⟩

theorem Faults.abandons {c : Instr} {s u : State} {k : Cause} (h : Faults c s u (u.quiesceFault k)) {m : Nat}
    (pending : s.eng.action = some (.rollback m)) :
    ∃ t : State, Sys2Proof.Machine.exec c s = .next (t.raise .rollbackDone (some m) (some 0) (some 2)).finish ∧
      State.BrokenFrom { u with eng := { s.eng with action := none } } t k := by
  have fault := quiesceFault_rollback (s := u) (by rw [h.eng]; exact pending) k
  have exec := h.exec
  rw [fault, h.eng] at exec
  exact ⟨_, exec, enterBroken_brokenFrom _ k⟩

theorem Faults.quiesces {c : Instr} {s u : State} {k : Cause} (h : Faults c s u (u.quiesceFault k))
    (quiescing : s.eng.state = .quiescing) (sound : s.eng.cause = none) (other : ∀ m, s.eng.action ≠ some (.rollback m)) :
    ∃ t : State, Sys2Proof.Machine.exec c s = .next t.finish ∧ u.QuiesceFaulted t k ∧
      (s.issuesAtOnce = false ∨ recordEntries (fun _ => true) s.hold.queue = [] →
        Sys2Proof.Machine.exec c s = Sys2Proof.Machine.exec .quiesceEnd { t with eventNo := s.eventNo }) := by
  have faulted := quiesceFault_faulted (s := u) (by rw [h.eng]; exact quiescing) (by rw [h.eng]; exact sound)
    (by rw [h.eng]; exact other) k
  refine ⟨_, h.exec, faulted, fun late => ?_⟩
  have quiet : (u.quiesceFault k).Quiet := faulted.quiet h.settled h.hold (by rw [h.down, h.hold]; exact late)
  obtain ⟨-, -, -, -, -, -, -, -, -, rstn, event, -⟩ := faulted.journal.rest
  have live : (u.quiesceFault k).eng.state ≠ .resetting := by rw [faulted.eng]; simpa [h.eng] using h.running
  rw [exec_quiesceEnd_again (rstn.trans h.high) (event.trans h.event), h.exec, finish_of_quiet quiet live]

/-- Where nothing comes of the fault, the event is over (R86, R87). -/
theorem Faults.known {c : Instr} {s u : State} (h : Faults c s u u) : Sys2Proof.Machine.exec c s = .next u := by
  have quiesce : u.quiesceDue = false := by
    rw [State.quiesceDue, h.eng, h.slots]
    exact h.settled.quiesce
  rw [h.exec, finish_of_same h.settled h.hold quiesce (by simp [State.resetDue, h.eng, h.running])]

/-! ## Abandoned slots -/

/-- The slots that are left when an abandoned one has no request outstanding (R71, R86). -/
def State.lessIdle (u : State) : State := { u with slots := u.slots.filter fun k => k.abandoned = false ∨ k.busy = true }

theorem freeAbandoned_eq {u : State} (idle : u.eng.state ≠ .active ∧ u.eng.state ≠ .stalled) : u.freeAbandoned = u.lessIdle := by
  have none : u.frees (fun j => !j.abandoned || j.busy) = false := by simp [State.frees, idle.1, idle.2]
  have slots : u.slots.filter (fun j => !j.abandoned || j.busy) = u.slots.filter fun k => k.abandoned = false ∨ k.busy = true :=
    List.filter_congr fun k _ => by cases k.abandoned <;> cases k.busy <;> rfl
  rw [State.freeAbandoned, keepSlots_eq, none, slots]
  rfl

theorem Faults.freed {c : Instr} {s u : State} (h : Faults c s u u.freeAbandoned)
    (state : s.eng.state = .broken ∨ s.eng.state = .quiescing) : Sys2Proof.Machine.exec c s = .next u.lessIdle.checkQuiesce := by
  have idle : u.eng.state ≠ .active ∧ u.eng.state ≠ .stalled := by
    rw [h.eng]
    rcases state with broken | quiescing
    · simp [broken]
    · simp [quiescing]
  have quiet : u.lessIdle.Quiet := quiet_of_hold h.settled h.hold
  rw [h.exec, freeAbandoned_eq idle, finish_of_quiet quiet (by simpa [State.lessIdle, h.eng] using h.running)]

theorem Faults.freed_broken {c : Instr} {s u : State} (h : Faults c s u u.freeAbandoned) (broken : s.eng.state = .broken) :
    Sys2Proof.Machine.exec c s = .next u.lessIdle := by
  have due : u.lessIdle.quiesceDue = false := by simp [State.quiesceDue, State.lessIdle, h.eng, broken]
  rw [h.freed (.inl broken), checkQuiesce_of_not_due due]

theorem Faults.freed_quiescing {c : Instr} {s u : State} (h : Faults c s u u.freeAbandoned) (quiescing : s.eng.state = .quiescing) :
    Sys2Proof.Machine.exec c s = Sys2Proof.Machine.exec .quiesceEnd { u.lessIdle with eventNo := s.eventNo } := by
  rw [h.freed (.inr quiescing)]
  exact (exec_quiesceEnd_again (t := u.lessIdle) h.high h.event).symm

end Sys2Proof.Machine
end


section
/-! SUPPORT. The responses to journal traffic: the old-data read and the record writes (R12 to R14, R73 to R78, R85 to R87). -/

namespace Sys2Proof.Machine

/-! ## The old-data read -/

/-- The slots once something is noted in the slot of a record. -/
theorem setSlot_isEmpty (s : State) (n : Nat) (f : Slot → Slot) : (s.setSlot n f).slots.isEmpty = s.slots.isEmpty := by
  rw [setSlot_slots, List.isEmpty_map]

/-- The delivery that notes something in a slot and goes on as `v`. -/
theorem faults_of_noted {c : Instr} {s v : State} {r : MemResponse} {q : DownRequest} {n : Nat} {f : Slot → Slot}
    (response : responseOf c = some r) (hr : s.rstn = true) (settled : s.Settled) (running : s.eng.state ≠ .resetting)
    (issued : s.down.issuedWith r.tag = some q) (delivered : (s.taking r.tag).deliver q r = v) :
    Faults c s ((s.taking r.tag).setSlot n f) v where
  settled := settled
  running := running
  exec := exec_delivered response hr issued delivered
  hold := rfl
  eng := rfl
  down := rfl
  event := rfl
  high := hr
  slots := setSlot_isEmpty (s.taking r.tag) n f

section
variable {s : State} {r : MemResponse} {n : Nat} {j : Slot} (slot : s.slotOf n = some j)
include slot

theorem oldDataReturned_abandoned (abandoned : j.abandoned = true) :
    s.oldDataReturned n r = (s.setSlot n fun j => { j with oldData := .discarded }).freeAbandoned := by
  simp [State.oldDataReturned, slot, abandoned]

theorem oldDataReturned_ok (live : j.abandoned = false) (ok : r.status = .ok) : s.oldDataReturned n r =
    (s.setSlot n fun j => { j with oldData := .image r.data, headerWrite := .outstanding, dataWrite := .outstanding }).handRecord
      j.header r.data := by
  simp [State.oldDataReturned, slot, live, (responseOk_iff r).mpr ok]

theorem oldDataReturned_failed (live : j.abandoned = false) (failed : r.status ≠ .ok) : s.oldDataReturned n r =
    (s.setSlot n fun j => { j with oldData := .discarded }).journalFault .oldDataFault := by
  simp [State.oldDataReturned, slot, live, responseOk_false failed]

end

/-- Settles O47, by the outcomes of the old-data read and of the fault. -/
theorem oldDataResponse : Obligations.OldDataResponse := by
  intro r s q n j hr settled issued owner slot running f discarded freed
  have delivered : f.deliver q r = f.oldDataReturned n r := by rw [State.deliver, owner]
  have slot' : f.slotOf n = some j := slot
  have failing (live : j.abandoned = false) (failed : r.status ≠ .ok) :
      Faults (.oldDataResponse r) s discarded (discarded.journalFault .oldDataFault) :=
    faults_of_noted rfl hr settled running issued (delivered.trans (oldDataReturned_failed slot' live failed))
  have freeing (abandoned : j.abandoned = true) : Faults (.oldDataResponse r) s discarded discarded.freeAbandoned :=
    faults_of_noted rfl hr settled running issued (delivered.trans (oldDataReturned_abandoned slot' abandoned))
  refine ⟨fun live ok seq => ?ok, fun abandoned => ⟨(freeing abandoned).freed_broken, (freeing abandoned).freed_quiescing⟩,
    fun live failed sound => ⟨fun going => ?_, fun m quiescing pending => ?_, fun quiescing other => ?_⟩, fun live failed known => ?_⟩
  case ok =>
    subst seq
    rw [exec_delivered rfl hr issued (delivered.trans (oldDataReturned_ok slot' live ok))]
    refine congrArg _ (finish_of_same settled rfl ?_ (by simp [State.resetDue, State.handRecord, f, State.taking, running]))
    rw [State.quiesceDue, State.handRecord]
    simp only [handOwn_frame, setSlot_isEmpty, setSlot_frame]
    exact settled.quiesce
  · have state : s.eng.state ∉ [EngineState.broken, .resetting, .quiescing] := by rcases going with h | h <;> rw [h] <;> decide
    exact (journalFault_going (s := discarded) state .oldDataFault ▸ failing live failed).breaks
  · exact (journalFault_quiescing (s := discarded) quiescing sound .oldDataFault ▸ failing live failed).abandons pending
  · exact (journalFault_quiescing (s := discarded) quiescing sound .oldDataFault ▸ failing live failed).quiesces quiescing sound other
  · have same := journalFault_known (s := discarded) known .oldDataFault
    have fault := failing live failed
    rw [same] at fault
    exact fault.known

end Sys2Proof.Machine
end


section
/-! SUPPORT. F moves: which records it passes, and what that does to the held entries, the slots, an opening and the control block
(R13, R14, R65, R74, R109, R128). -/

namespace Sys2Proof.Machine

/-! ## Where F stops -/

/-- F stops at the tail or at a record that is not complete (R13). -/
theorem frontierFrom_stops (l : List Slot) (n f : Nat) : frontierFrom l n f = f + n ∨
    l.any (fun j => decide (j.header.seq = frontierFrom l n f) && j.complete) = false := by
  induction n generalizing f with
  | zero => exact .inl rfl
  | succ n ih =>
    rw [frontierFrom]
    split
    · rw [← Nat.add_assoc, Nat.add_right_comm]
      exact ih (f + 1)
    · exact .inr (Bool.eq_false_iff.mpr ‹_›)

theorem newFrontier_stays {s : State} (h : s.slots.any (fun j => decide (j.header.seq = s.ring.frontier) && j.complete) = false ∨
    s.ring.tail ≤ s.ring.frontier) : s.newFrontier = s.ring.frontier := by
  rw [State.newFrontier]
  cases n : s.ring.tail - s.ring.frontier with
  | zero => rfl
  | succ n =>
    have open_ := h.resolve_right (by omega)
    rw [frontierFrom, if_neg (by simp [open_])]

theorem newFrontier_moves {s : State} (complete : s.slots.any (fun j => decide (j.header.seq = s.ring.frontier) && j.complete) = true)
    (room : s.ring.frontier < s.ring.tail) : s.ring.frontier < s.newFrontier := by
  rw [State.newFrontier]
  obtain ⟨n, hn⟩ : ∃ n, s.ring.tail - s.ring.frontier = n + 1 := ⟨s.ring.tail - s.ring.frontier - 1, by omega⟩
  rw [hn, frontierFrom, if_pos complete]
  exact frontierFrom_ge ..

/-! ## What F's move does -/

/-- The entries whose records F passes (R74). -/
def State.passedEntries (s : State) (f : Nat) : List Entry := recordEntries (fun m => decide (m < f)) s.hold.queue

/-- The slots that stay when F has moved to `f` (R14, R71, R74). -/
def State.staysPast (s : State) (f : Nat) (j : Slot) : Bool :=
  j.staysAt f && (!s.issuesAtOnce || keptBy f (s.passedEntries f) j)

/-- The state in which F has moved to `f`: the held writes are forwarded and slots freed, and an opening is not yet completed. -/
def State.passed (s : State) (f : Nat) : State :=
  (State.forwardHeld { s with ring := { s.ring with frontier := f } } (Entry.passedBy · f)).keepSlots (Slot.staysAt f)

/-- The queue that the forwarding leaves, before SLOT entries are offered. -/
def State.queuePast (s : State) (f : Nat) : List Entry :=
  (if s.issuesAtOnce then issuedFrom (s.passedEntries f) s.hold.queue else s.hold.queue).map (Entry.markIssue (Entry.passedBy · f))

theorem queuePast_issued {s : State} (h : s.issuesAtOnce = true) (f : Nat) :
    s.queuePast f = issuedFrom (s.passedEntries f) s.hold.queue := by
  rw [State.queuePast, if_pos h, State.passedEntries, ← filter_passedBy]
  exact issuedFrom_mark (passedBy_names f) s.hold.queue

/-- Whether the forwarding of the entries that F passes leaves a slot. -/
def State.unissued (s : State) (f : Nat) (j : Slot) : Bool := !s.issuesAtOnce || keptBy f (s.passedEntries f) j

theorem forwardPassed_eq (s : State) (f : Nat) :
    State.forwardHeld { s with ring := { s.ring with frontier := f } } (Entry.passedBy · f) = { s with
      ring := { s.ring with frontier := f }
      slots := s.slots.filter (s.unissued f)
      hold := { s.hold with queue := offerSlots (s.frees (s.unissued f)) (s.queuePast f) }
      down := s.down.handed (s.forwardsOf (s.passedEntries f)) } := by
  rw [forwardHeld_eq _ (passedBy_names f), filter_passedBy]
  cases h : s.issuesAtOnce
  · have flag : ¬ State.issuesAtOnce { s with ring := { s.ring with frontier := f } } = true := by
      show ¬ s.issuesAtOnce = true
      simp [h]
    have all : s.unissued f = fun _ => true := funext fun j => by simp [State.unissued, h]
    have slots : s.slots.filter (s.unissued f) = s.slots := by rw [all]; exact List.filter_eq_self.mpr fun _ _ => rfl
    have none : s.frees (s.unissued f) = false := by rw [all]; simp [State.frees]
    rw [slots, none, State.queuePast, h]
    exact if_neg flag
  · have flag : State.issuesAtOnce { s with ring := { s.ring with frontier := f } } = true := h
    have some : s.unissued f = keptBy f (s.passedEntries f) := funext fun j => by simp [State.unissued, h]
    rw [queuePast_issued h, some]
    exact if_pos flag

theorem passed_eq (s : State) (f : Nat) : s.passed f = { s with
    ring := { s.ring with frontier := f }
    slots := s.slots.filter (s.staysPast f)
    hold := { s.hold with queue := offerSlots (s.frees (s.staysPast f)) (s.queuePast f) }
    down := s.down.handed (s.forwardsOf (s.passedEntries f)) } := by
  have stays : (fun j : Slot => j.staysAt f && s.unissued f j) = s.staysPast f := rfl
  rw [State.passed, forwardPassed_eq, keepSlots_eq]
  simp only [List.filter_filter, offerSlots_offerSlots, stays]
  rw [frees_and (s := s) (p := s.unissued f) (by rfl) (by rfl), stays]

/-! ## The end of F's move -/

/-- The state once an opening whose OPEN record F has passed is completed (R128). -/
def State.opened (s : State) (f : Nat) : State := if s.opensAt f then (s.passed f).openingDone else s.passed f

theorem moveFrontier_eq (s : State) (f : Nat) : s.moveFrontier f =
    if s.ring.frontier / s.layout.stride < f / s.layout.stride then (s.opened f).requestStatus false else s.opened f := rfl

/-- Completing an opening changes the engine, the held entries and the event queue alone. -/
theorem opened_eq (s : State) (f : Nat) : s.opened f = { s.passed f with
    eng := (s.opened f).eng, hold := (s.opened f).hold, port := (s.opened f).port } := by
  unfold State.opened
  split <;> rfl

theorem opened_eng (s : State) (f : Nat) : (s.opened f).eng = if s.opensAt f then { s.eng with state := .active } else s.eng := by
  have eng : (s.passed f).eng = s.eng := by rw [passed_eq]
  rw [State.opened, ← eng]
  split <;> rfl

theorem opened_port (s : State) (f : Nat) : (s.opened f).port = if s.opensAt f then s.port.append {
    kind := .openDone, state := .active, seq := some 0, detail := some s.eng.epoch.toNat, count := some s.eng.opener.source.code }
    else s.port := by
  have eng : (s.passed f).eng = s.eng := by rw [passed_eq]
  have port : (s.passed f).port = s.port := by rw [passed_eq]
  rw [State.opened, ← eng, ← port]
  split <;> rfl

/-- What an entry waits for once F has moved: a passed record's write is forwarded, a SLOT entry is offered when a slot is freed, and
the completed opening offers the ENGINE, SLOT and SPACE entries (R65, R74, R88). -/
def Entry.moved (f : Nat) (freed opened : Bool) (e : Entry) : Entry :=
  match e.wait with
  | .record m => if m < f then { e with wait := .issue } else e
  | .slot => if freed = true ∨ opened = true then { e with wait := .ready } else e
  | .engine | .space => if opened = true then { e with wait := .ready } else e
  | .line | .place | .issue | .ready => e

theorem moved_of_closed (f : Nat) (freed : Bool) (e : Entry) :
    Entry.offered freed (Entry.markIssue (Entry.passedBy · f) e) = Entry.moved f freed false e := by
  obtain ⟨r, w⟩ := e
  cases w with
  | record m => by_cases low : m < f <;> simp [Entry.offered, Entry.markIssue, Entry.passedBy, Entry.moved, low]
  | _ => cases freed <;> rfl

theorem moved_of_opened (f : Nat) (freed : Bool) (e : Entry) :
    (fun e : Entry => if Wait.clearedByEngine e.wait then { e with wait := .ready } else e) (Entry.moved f freed false e) =
      Entry.moved f freed true e := by
  obtain ⟨r, w⟩ := e
  cases w with
  | record m => by_cases low : m < f <;> simp [Entry.moved, low, Wait.clearedByEngine]
  | _ => cases freed <;> rfl

theorem opened_hold (s : State) (f : Nat) : (s.opened f).hold = { s.hold with
    queue := (if s.issuesAtOnce then issuedFrom (s.passedEntries f) s.hold.queue else s.hold.queue).map
      (Entry.moved f (s.frees (s.staysPast f)) (s.opensAt f)) } := by
  have queue : (s.passed f).hold.queue =
      (if s.issuesAtOnce then issuedFrom (s.passedEntries f) s.hold.queue else s.hold.queue).map
        (Entry.moved f (s.frees (s.staysPast f)) false) := by
    rw [passed_eq, offerSlots_eq, State.queuePast, List.map_map]
    exact List.map_congr_left fun e _ => moved_of_closed f _ e
  have waiting : (s.passed f).hold.waiting = s.hold.waiting := by rw [passed_eq]
  rw [State.opened]
  cases s.opensAt f
  · exact (congrArg (fun w => ({ queue := (s.passed f).hold.queue, waiting := w } : Hold)) waiting).trans
      (congrArg (fun q => ({ s.hold with queue := q } : Hold)) queue)
  · have woken : (s.passed f).openingDone.hold.queue = wakeEntries Wait.clearedByEngine (s.passed f).hold.queue := rfl
    refine (congrArg (fun w => ({ queue := (s.passed f).openingDone.hold.queue, waiting := w } : Hold)) waiting).trans
      (congrArg (fun q => ({ s.hold with queue := q } : Hold)) ?_)
    rw [woken, queue, wakeEntries, List.map_map]
    exact List.map_congr_left fun e _ => moved_of_opened f _ e

/-- What F's move to `f` does, item by item. -/
structure FrontierMoved (s t : State) (f : Nat) : Prop where
  ring : t.ring = { s.ring with frontier := f }
  slots : t.slots = s.slots.filter (s.staysPast f)
  hold : t.hold = { s.hold with
    queue := (if s.issuesAtOnce then issuedFrom (s.passedEntries f) s.hold.queue else s.hold.queue).map
      (Entry.moved f (s.frees (s.staysPast f)) (s.opensAt f)) }
  eng : t.eng = if s.opensAt f then { s.eng with state := .active } else s.eng
  port : t.port = if s.opensAt f then s.port.append {
    kind := .openDone, state := .active, seq := some 0, detail := some s.eng.epoch.toNat, count := some s.eng.opener.source.code }
    else s.port
  watch : t.watch = if ¬ s.ring.frontier / s.layout.stride < f / s.layout.stride then s.watch
    else if s.watch.outstanding = true then { s.watch with updatePending := true } else { s.watch with outstanding := true }
  down : ∃ l, t.down = s.down.handed (s.forwardsOf (s.passedEntries f) ++ l) ∧
    l.map (fun x => (x.owner, x.op, x.addr, x.mask)) =
      if s.ring.frontier / s.layout.stride < f / s.layout.stride ∧ s.watch.outstanding = false then
        [(.status, .write t.statusLine, s.layout.controlLine, statusMask)] else []
  rest : t.segments = s.segments ∧ t.touch = s.touch ∧ t.stall = s.stall ∧ t.timer = s.timer ∧ t.views = s.views ∧
    t.replay = s.replay ∧ t.scan = s.scan ∧ t.up = s.up

/-- Completing the opening is all that is left to do, where no stride multiple is crossed (R109). -/
theorem frontierMoved_quiet {s : State} {f : Nat} (within : ¬ s.ring.frontier / s.layout.stride < f / s.layout.stride) :
    FrontierMoved s (s.opened f) f where
  ring := by rw [opened_eq, passed_eq]
  slots := by rw [opened_eq, passed_eq]
  hold := opened_hold s f
  eng := opened_eng s f
  port := opened_port s f
  watch := by rw [if_pos within, opened_eq, passed_eq]
  down := ⟨[], by rw [List.append_nil, opened_eq, passed_eq], by rw [if_neg (fun h => within h.1)]; rfl⟩
  rest := by
    rw [opened_eq, passed_eq]
    exact ⟨rfl, rfl, rfl, rfl, rfl, rfl, rfl, rfl⟩

/-- A crossed stride multiple requests a status write of the state F's move leaves (R109, R110). -/
theorem frontierMoved_crossed {s : State} {f : Nat} (crossed : s.ring.frontier / s.layout.stride < f / s.layout.stride) :
    FrontierMoved s ((s.opened f).requestStatus false) f where
  ring := by simp only [requestStatus_frame]; rw [opened_eq, passed_eq]
  slots := by simp only [requestStatus_frame]; rw [opened_eq, passed_eq]
  hold := by simp only [requestStatus_frame]; exact opened_hold s f
  eng := by simp only [requestStatus_frame]; exact opened_eng s f
  port := by simp only [requestStatus_frame]; exact opened_port s f
  watch := by
    have same : (s.opened f).watch = s.watch := by rw [opened_eq, passed_eq]
    rw [if_neg (not_not_intro crossed), requestStatus_watch, same]
  down := by
    have watch : (s.opened f).watch = s.watch := by rw [opened_eq, passed_eq]
    have layout : (s.opened f).layout = s.layout := by rw [opened_eq, passed_eq]
    have down : (s.opened f).down = s.down.handed (s.forwardsOf (s.passedEntries f)) := by rw [opened_eq, passed_eq]
    have line : ((s.opened f).requestStatus false).statusLine = (s.opened f).statusLine :=
      statusLine_congr (by simp) (by simp) (by simp) (by simp)
    rw [requestStatus_handed, watch, down, line]
    cases h : s.watch.outstanding
    · refine ⟨_, (if_neg (by decide)).trans (handed_handed ..), ?_⟩
      rw [if_pos ⟨crossed, rfl⟩, layout]
      rfl
    · exact ⟨[], by rw [if_pos rfl, List.append_nil], by rw [if_neg (fun h => by cases h.2)]; rfl⟩
  rest := by
    simp only [requestStatus_frame]
    rw [opened_eq, passed_eq]
    exact ⟨rfl, rfl, rfl, rfl, rfl, rfl, rfl, rfl⟩

theorem moveFrontier_moved (s : State) (f : Nat) : FrontierMoved s (s.moveFrontier f) f := by
  rw [moveFrontier_eq]
  split
  · exact frontierMoved_crossed ‹_›
  · exact frontierMoved_quiet ‹_›

end Sys2Proof.Machine
end


section
/-! SUPPORT. The record writes are acknowledged (R12, R13, R14, R77, R78). -/

namespace Sys2Proof.Machine

section
variable {s : State} {r : MemResponse} {n : Nat} {j : Slot} (slot : s.slotOf n = some j) (note : Slot → Slot)
include slot

theorem recordReturned_abandoned (abandoned : j.abandoned = true) : s.recordReturned n note r = (s.setSlot n note).freeAbandoned := by
  simp [State.recordReturned, slot, abandoned]

theorem recordReturned_ok (live : j.abandoned = false) (ok : r.status = .ok) :
    s.recordReturned n note r = (s.setSlot n note).advanceFrontier := by
  simp [State.recordReturned, slot, live, (responseOk_iff r).mpr ok]

theorem recordReturned_failed (live : j.abandoned = false) (failed : r.status ≠ .ok) :
    s.recordReturned n note r = (s.setSlot n note).journalFault .recordFault := by
  simp [State.recordReturned, slot, live, responseOk_false failed]

end

/-- The acknowledgement that a record write's response notes in the slot (R12). -/
def noteOf (q : DownRequest) (n : Nat) (k : Slot) : Slot :=
  if q.owner = .recordHeader n then { k with headerWrite := .acknowledged } else { k with dataWrite := .acknowledged }

theorem deliver_recordWrite (s : State) (r : MemResponse) {q : DownRequest} {n : Nat}
    (owner : q.owner = .recordHeader n ∨ q.owner = .recordData n) : s.deliver q r = s.recordReturned n (noteOf q n) r := by
  rcases owner with header | data
  · have note : noteOf q n = fun j => { j with headerWrite := .acknowledged } := funext fun j => if_pos header
    rw [State.deliver, header, note]
  · have note : noteOf q n = fun j => { j with dataWrite := .acknowledged } := funext fun j => if_neg (by rw [data]; exact nofun)
    rw [State.deliver, data, note]

/-- A record is complete when every write it needs is acknowledged (R12). -/
theorem any_complete_iff (l : List Slot) (m : Nat) : l.any (fun j => decide (j.header.seq = m) && j.complete) = true ↔
    ∃ k ∈ l, k.header.seq = m ∧ k.abandoned = false ∧ k.headerWrite = .acknowledged ∧
      (k.header.kind = .change → k.dataWrite = .acknowledged) := by
  simp [Slot.complete, and_assoc, imp_iff_not_or]

theorem staysPast_iff (s : State) (f : Nat) (k : Slot) : s.staysPast f k = true ↔ f ≤ k.header.seq ∨
    (k.header.kind = .change ∧ (s.issuesAtOnce = true → ∀ e ∈ s.passedEntries f, k.held ≠ some e.req.tag)) := by
  by_cases high : f ≤ k.header.seq
  · simp [State.staysPast, Slot.staysAt, keptBy, high]
  · cases atOnce : s.issuesAtOnce <;> simp [State.staysPast, Slot.staysAt, keptBy, high, atOnce]

theorem opensAt_iff (s : State) (f : Nat) : s.opensAt f = true ↔
    s.eng.state = .opening ∧ ∃ k ∈ s.slots, k.header.kind = .opening ∧ k.header.seq < f := by
  simp [State.opensAt]

theorem frees_iff (s : State) (p : Slot → Bool) : s.frees p = true ↔
    (s.eng.state = .active ∨ s.eng.state = .stalled) ∧ ∃ k ∈ s.slots, ¬ p k = true := by
  simp [State.frees]

theorem advanceFrontier_stays {s : State} (h : s.newFrontier = s.ring.frontier) : s.advanceFrontier = s := if_pos h

theorem advanceFrontier_of_lt {s : State} (h : s.ring.frontier < s.newFrontier) : s.advanceFrontier = s.moveFrontier s.newFrontier :=
  if_neg (Nat.ne_of_gt h)

theorem newFrontier_stops (s : State) (room : s.ring.frontier < s.ring.tail) : s.newFrontier = s.ring.tail ∨
    s.slots.any (fun j => decide (j.header.seq = s.newFrontier) && j.complete) = false :=
  (frontierFrom_stops s.slots (s.ring.tail - s.ring.frontier) s.ring.frontier).imp_left fun h => h.trans (by omega)

/-- Settles O48, by the outcomes of the write; where F moves, by the items of its move. -/
theorem recordWriteAck : Obligations.RecordWriteAck := by
  intro r s q n j hr settled issued owner slot going slots complete noted freed
  have delivered := deliver_recordWrite (s.taking r.tag) r owner
  have slot' : (s.taking r.tag).slotOf n = some j := slot
  have completes (m : Nat) : noted.slots.any (fun j => decide (j.header.seq = m) && j.complete) = true ↔ complete m :=
    any_complete_iff slots m
  have faults {v : State} (running : s.eng.state ≠ .resetting) (h : (s.taking r.tag).recordReturned n (noteOf q n) r = v) :
      Faults (.recordWriteAck r) s noted v := faults_of_noted rfl hr settled running issued (delivered.trans h)
  have live (h : going) : s.eng.state ≠ .resetting := fun resetting => by simp [going, resetting] at h
  have failing (running : s.eng.state ≠ .resetting) (held : j.abandoned = false) (failed : r.status ≠ .ok) :
      Faults (.recordWriteAck r) s noted (noted.journalFault .recordFault) :=
    faults running (recordReturned_failed slot' _ held failed)
  have freeing (abandoned : j.abandoned = true) (state : s.eng.state = .broken ∨ s.eng.state = .quiescing) :
      Faults (.recordWriteAck r) s noted noted.freeAbandoned :=
    faults (by rcases state with h | h <;> rw [h] <;> decide) (recordReturned_abandoned slot' _ abandoned)
  refine ⟨fun h ok still => ?stays, fun h ok first room => ?moves, fun h failed other sound => ?breaks, fun h failed quiescing sound => ?quiesces,
    fun held failed known => ?known, fun abandoned => ⟨fun broken => (freeing abandoned (.inl broken)).freed_broken broken,
      fun quiescing => (freeing abandoned (.inr quiescing)).freed_quiescing quiescing⟩⟩
  case stays =>
    have same : noted.newFrontier = noted.ring.frontier :=
      newFrontier_stays (still.imp_left fun h => Bool.eq_false_iff.mpr (mt (completes _).mp h))
    exact (faults (live h) ((recordReturned_ok slot' _ h.1 ok).trans (advanceFrontier_stays same))).known
  case breaks =>
    have state : noted.eng.state ∉ [EngineState.broken, .resetting, .quiescing] := by
      obtain ⟨-, state⟩ := h
      simp only [List.mem_cons, List.not_mem_nil, or_false] at state
      rcases state with h | h | h | h
      · exact fun bad => by simp [noted, State.taking, h] at bad
      · exact fun bad => by simp [noted, State.taking, h] at bad
      · exact absurd h other
      · exact fun bad => by simp [noted, State.taking, h] at bad
    exact (journalFault_going state .recordFault ▸ failing (live h) h.1 failed).breaks
  case quiesces =>
    have fault := journalFault_quiescing (s := noted) quiescing sound .recordFault ▸ failing (live h) h.1 failed
    exact ⟨fun m pending => fault.abandons pending, fun other => fault.quiesces quiescing sound other⟩
  case known =>
    have running : s.eng.state ≠ .resetting := by rcases known with h | ⟨h, -⟩ <;> rw [h] <;> decide
    have fault := failing running held failed
    rw [journalFault_known (s := noted) known] at fault
    exact fault.known
  case moves =>
    have up := newFrontier_moves (s := noted) ((completes _).mpr first) room
    have exec := (faults (live h) ((recordReturned_ok slot' _ h.1 ok).trans (advanceFrontier_of_lt up))).exec
    have moved := moveFrontier_moved noted noted.newFrontier
    refine ⟨noted.moveFrontier noted.newFrontier, exec, ?_⟩
    intro top opened released stays freed crossed
    have value : top = noted.newFrontier := congrArg Ring.frontier moved.ring
    clear_value top
    subst value
    have opens : noted.opensAt noted.newFrontier = true ↔ opened := opensAt_iff noted _
    have keeps (k : Slot) : noted.staysPast noted.newFrontier k = true ↔ stays k := staysPast_iff noted _ k
    have frees : noted.frees (noted.staysPast noted.newFrontier) = true ↔ freed := by
      rw [frees_iff]
      simp only [keeps]
      exact Iff.rfl
    refine ⟨moved.ring, up, (newFrontier_le noted).resolve_right (Nat.ne_of_gt up), fun m low high => ?_, ?_, ?_, ?_, ?_, fun h => ?_, fun h => ?_,
      moved.watch, moved.down, moved.rest⟩
    · exact (completes m).mp (frontierFrom_complete _ _ _ m low high)
    · exact (newFrontier_stops noted room).imp_right fun open_ whole => by simp [(completes _).mpr whole] at open_
    · rw [moved.slots]
      exact List.filter_congr fun k _ => by rw [Bool.eq_iff_iff, keeps, decide_eq_true_iff]
    · rw [moved.hold]; rfl
    · refine (congrArg Hold.queue moved.hold).trans (List.map_congr_left fun e _ => ?_)
      rw [Entry.moved]
      cases e.wait with
      | slot => exact if_congr (or_congr frees opens) rfl rfl
      | engine | space => exact if_congr opens rfl rfl
      | _ => rfl
    · refine ⟨moved.eng.trans (if_pos (opens.mpr h)), fun enabled few => ?_⟩
      have port := moved.port.trans (if_pos (opens.mpr h))
      rw [append_queued (by exact enabled) (by exact few)] at port
      refine (congrArg Port.events port).trans ?_
      cases opener : s.eng.opener <;> simp [noted, State.taking, opener, Opener.source, Source.code]
    · exact ⟨moved.eng.trans (if_neg (mt opens.mp h)), moved.port.trans (if_neg (mt opens.mp h))⟩

end Sys2Proof.Machine
end


section
/-! SUPPORT. The status write returns: the pending update, the step that waits for the write, and the faults of R111 (R108, R110,
R111, R127, R136, R145, R147). -/

namespace Sys2Proof.Machine

/-! ## The pending update -/

/-- The watch unit with no write outstanding and nothing pending (R110). -/
def State.unwatched (s : State) : State := { s with watch := { outstanding := false, updatePending := false, occasion := .idle } }

theorem issuePending_none {s : State} (none : s.watch.updatePending = false) :
    s.issuePending = { s with watch := { s.watch with outstanding := false } } := by
  rw [State.issuePending, none]; rfl

theorem issuePending_some {s : State} (pending : s.watch.updatePending = true) : s.issuePending =
    { s.handOwn (.write s.statusLine) s.layout.controlLine statusMask .status with
      watch := { outstanding := true, updatePending := false
                 occasion := if s.watch.occasion = .queued then .inFlight else s.watch.occasion } } := by
  rw [State.issuePending, pending]; rfl

theorem issuePending_idle {s : State} (none : s.watch.updatePending = false) (idle : s.watch.occasion = .idle) :
    s.issuePending = s.unwatched := by
  rw [issuePending_none none, State.unwatched, ← none, ← idle]

/-- What is asked of the control block while a write stands is issued when that write returns (R110, R111). -/
theorem issuePending_requestStatus {s : State} (stands : s.watch.outstanding = true) (idle : s.watch.occasion = .idle) :
    (s.requestStatus false).issuePending = s.unwatched.requestStatus false := by
  rw [requestStatus_of_outstanding stands, requestStatus_of_free (s := s.unwatched) rfl]
  have pending : ({ s with watch := { s.watch with updatePending := true } } : State).watch.updatePending = true := rfl
  rw [issuePending_some pending, idle]
  rfl

theorem issuePending_wake (s : State) (p : Wait → Bool) : (s.wake p).issuePending = s.issuePending.wake p := by
  cases h : s.watch.updatePending
  · rw [issuePending_none h, issuePending_none (s := s.wake p) h]; rfl
  · rw [issuePending_some h, issuePending_some (s := s.wake p) h]; rfl

theorem issuePending_raise (s : State) (k : EventKind) (q d n : Option Nat) :
    (s.raise k q d n).issuePending = s.issuePending.raise k q d n := by
  cases h : s.watch.updatePending
  · rw [issuePending_none h, issuePending_none (s := s.raise k q d n) h]; rfl
  · rw [issuePending_some h, issuePending_some (s := s.raise k q d n) h]; rfl

/-- Entry into BROKEN while the returned write still stands is the entry with no write outstanding (R110, R111). -/
theorem issuePending_enterBroken {s : State} (stands : s.watch.outstanding = true) (idle : s.watch.occasion = .idle) (c : Cause) :
    (s.enterBroken c).issuePending = s.unwatched.enterBroken c := by
  have asked : ((s.brokenBefore c).requestStatus false).issuePending = (s.brokenBefore c).unwatched.requestStatus false :=
    issuePending_requestStatus stands idle
  show (((s.brokenBefore c).requestStatus false).wake Wait.clearedByBroken).issuePending = _
  rw [issuePending_wake, asked]
  rfl

theorem unwatched_quiesceBroken (s : State) (c : Cause) : (s.quiesceBroken c).unwatched = s.unwatched.quiesceBroken c := by
  rw [State.quiesceBroken, State.quiesceBroken, forwardHeld_broken, forwardHeld_broken]
  rfl

theorem issuePending_quiesceFault {s : State} (stands : s.watch.outstanding = true) (idle : s.watch.occasion = .idle) (c : Cause) :
    (s.quiesceFault c).issuePending = s.unwatched.quiesceFault c := by
  by_cases rollback : ∃ m, s.eng.action = some (.rollback m)
  · obtain ⟨m, pending⟩ := rollback
    rw [quiesceFault_rollback pending, quiesceFault_rollback (s := s.unwatched) pending, issuePending_raise,
      issuePending_enterBroken (by exact stands) (by exact idle)]
    rfl
  · have other : ∀ m, s.eng.action ≠ some (.rollback m) := fun m pending => rollback ⟨m, pending⟩
    have watch : (s.quiesceBroken c).watch = s.watch := by rw [State.quiesceBroken, forwardHeld_broken]; rfl
    rw [quiesceFault_eq other, quiesceFault_eq (s := s.unwatched) other,
      issuePending_requestStatus (by rw [watch]; exact stands) (by rw [watch]; exact idle), unwatched_quiesceBroken]

/-! ## The response -/

theorem statusReturned_ok {s : State} (running : s.eng.state ≠ .resetting) :
    s.statusReturned true = s.noteReturn.goOn.issuePending := by
  rw [State.statusReturned, if_neg running, if_pos rfl]

theorem statusReturned_failed {s : State} (running : s.eng.state ≠ .resetting) :
    s.statusReturned false = s.noteReturn.statusFault.issuePending := by
  rw [State.statusReturned, if_neg running, if_neg (by decide)]

theorem noteReturn_same {s : State} (h : s.watch.occasion ≠ .inFlight) : s.noteReturn = s := by
  rw [State.noteReturn, if_neg h]

theorem noteReturn_inFlight {s : State} (h : s.watch.occasion = .inFlight) :
    s.noteReturn = { s with watch := { s.watch with occasion := .returned } } := by
  rw [State.noteReturn, if_pos h]

theorem goOn_same {s : State} (h : s.watch.occasion ≠ .returned) : s.goOn = s := if_pos h

/-- With no occasion returned the write's OK does no more than issue what is pending. -/
theorem statusReturned_plain {s : State} (running : s.eng.state ≠ .resetting) (h : s.watch.occasion = .idle ∨ s.watch.occasion = .queued) :
    s.statusReturned true = s.issuePending := by
  have waits : s.watch.occasion ≠ .inFlight ∧ s.watch.occasion ≠ .returned := by rcases h with h | h <;> rw [h] <;> decide
  rw [statusReturned_ok running, noteReturn_same waits.1, goOn_same waits.2]

/-- A status write's response, from its delivery to the end of its event. -/
theorem statusFaults {s u v : State} {r : MemResponse} {q : DownRequest} {b : Bool} (hr : s.rstn = true) (settled : s.Settled)
    (running : s.eng.state ≠ .resetting) (issued : s.down.issuedWith r.tag = some q) (owner : q.owner = .status)
    (status : responseOk r = b) (returned : (s.taking r.tag).statusReturned b = v) (hold : u.hold = s.hold) (eng : u.eng = s.eng)
    (slots : u.slots = s.slots) (down : u.issuesAtOnce = s.issuesAtOnce) (event : u.eventNo = s.eventNo + 1) (high : u.rstn = true) :
    Faults (.statusWriteResponse r) s u v where
  settled := settled
  running := running
  exec := exec_delivered rfl hr issued (by rw [State.deliver, owner, status]; exact returned)
  hold := hold
  eng := eng
  down := down
  event := event
  high := high
  slots := by rw [slots]

/-! ## The step that waits for the write -/

theorem readReplay_unwatched (n : Nat) (s : State) : State.readReplay n s.unwatched = (State.readReplay n s).unwatched := by
  induction n generalizing s with
  | zero => rfl
  | succ n ih =>
    cases h : s.replay with
    | none => rw [State.readReplay, State.readReplay, h]; rw [show s.unwatched.replay = none from h]
    | some p =>
      by_cases room : p.begun = true ∧ p.places.length < Config.replayPlaces ∧ p.target < p.readCursor
      · rw [readReplay_of_room h room.1 room.2.1 room.2.2, readReplay_of_room (s := s.unwatched) h room.1 room.2.1 room.2.2, ← ih]
        rfl
      · rw [readReplay_of_done h room, readReplay_of_done (s := s.unwatched) h room]

/-- Reading slots moves neither the replay cursor nor the target, and touches the watch unit not at all. -/
theorem readReplay_keeps (n : Nat) (s : State) {p : Replay} (unit : s.replay = some p) :
    (State.readReplay n s).watch = s.watch ∧ ∃ k, (State.readReplay n s).replay = some k ∧ k.cursor = p.cursor ∧ k.target = p.target := by
  induction n generalizing s p with
  | zero => exact ⟨rfl, p, unit, rfl, rfl⟩
  | succ n ih =>
    by_cases room : p.begun = true ∧ p.places.length < Config.replayPlaces ∧ p.target < p.readCursor
    · rw [readReplay_of_room unit room.1 room.2.1 room.2.2]
      obtain ⟨watch, k, found, cursor, target⟩ := ih { s.readSlot .replayHeader .replayData p.readCursor with
        replay := some { p with places := p.places ++ [freshReplayPlace p.readCursor], readCursor := p.readCursor - 1 } } rfl
      exact ⟨watch, k, found, cursor, target⟩
    · rw [readReplay_of_done unit room]
      exact ⟨rfl, p, unit, rfl, rfl⟩

theorem issuePending_endRollback {s : State} {p : Replay} (unit : s.replay = some p) (stands : s.watch.outstanding = true)
    (idle : s.watch.occasion = .idle) : s.endRollback.issuePending = s.unwatched.endRollback := by
  rw [State.endRollback, State.endRollback, unit, show s.unwatched.replay = some p from unit]
  dsimp only
  split
  · rw [issuePending_raise, issuePending_requestStatus (by exact stands) (by exact idle)]
    rfl
  · rw [issuePending_raise, issuePending_enterBroken (by exact stands) (by exact idle)]
    rfl

end Sys2Proof.Machine
end


section
/-! SUPPORT. The outcomes of the status write's response (R111): what goes on, what breaks, and what the pending update adds. -/

namespace Sys2Proof.Machine

/-! ## What issuing the pending update leaves alone -/

theorem issuePending_eq (s : State) :
    s.issuePending = { s with watch := s.issuePending.watch, down := s.issuePending.down } := by
  cases pending : s.watch.updatePending
  · rw [issuePending_none pending]
  · rw [issuePending_some pending]; rfl

theorem issuePending_issuesAtOnce (s : State) : s.issuePending.issuesAtOnce = s.issuesAtOnce := by
  cases pending : s.watch.updatePending
  · rw [issuePending_none pending]; rfl
  · rw [issuePending_some pending]
    exact hand_takesAtOnce s.down _

/-! ## The fault, by the engine's state -/

theorem statusFault_entering {s : State}
    (h : s.eng.state = .active ∨ s.eng.state = .stalled ∨ (s.eng.state = .opening ∧ s.segments ≠ [])) :
    s.statusFault = s.enterBroken .controlFault := by
  unfold State.statusFault
  rcases h with h | h | ⟨h, listed⟩ <;> rw [h]
  simp [listed]

theorem statusFault_opening {s : State} (h : s.eng.state = .opening) (none : s.segments = []) : s.statusFault = s.openingBroken := by
  simp [State.statusFault, h, none]

theorem statusFault_rolling {s : State} (h : s.eng.state = .rolling) : s.statusFault = s.abandonRollback := by
  rw [State.statusFault, h]

theorem statusFault_quiescing {s : State} (h : s.eng.state = .quiescing) (sound : s.eng.cause = none) :
    s.statusFault = s.quiesceFault .controlFault := by
  simp [State.statusFault, h, sound]

theorem statusFault_known {s : State} (h : s.eng.state = .broken ∨ (s.eng.state = .quiescing ∧ s.eng.cause ≠ none)) :
    s.statusFault = s.raiseBroken .controlFault := by
  unfold State.statusFault
  rcases h with h | ⟨h, known⟩ <;> rw [h]
  exact if_pos (Option.isSome_iff_ne_none.mpr known)

theorem statusFault_closing {s : State} (h : s.eng.state = .closing) : s.statusFault = s.closingFault := by
  rw [State.statusFault, h]

/-! ## Responses after which nothing goes on -/

/-- A status write's response that adds to the event queue and issues what is pending, and no more. -/
theorem exec_statusWrite_quiet {s t : State} {r : MemResponse} {q : DownRequest} {b : Bool} (hr : s.rstn = true) (settled : s.Settled)
    (running : s.eng.state ≠ .resetting) (issued : s.down.issuedWith r.tag = some q) (owner : q.owner = .status)
    (status : responseOk r = b) (returned : (s.taking r.tag).statusReturned b = t.issuePending)
    (same : t = { s.taking r.tag with port := t.port }) : exec (.statusWriteResponse r) s = .next t.issuePending := by
  have frame := issuePending_eq t
  refine (statusFaults (u := t.issuePending) hr settled running issued owner status returned ?_ ?_ ?_ ?_ ?_ ?_).known
  case refine_4 => rw [issuePending_issuesAtOnce, same]; rfl
  case refine_6 => exact (congrArg State.rstn frame).trans ((congrArg State.rstn same).trans hr)
  all_goals rw [frame, same]; rfl

section
variable {s : State} {r : MemResponse} {q : DownRequest} (hr : s.rstn = true) (settled : s.Settled)
  (running : s.eng.state ≠ .resetting) (issued : s.down.issuedWith r.tag = some q) (owner : q.owner = .status)
include hr settled running issued owner

/-- An OK that no step waits for issues what is pending (R110). -/
theorem exec_statusWrite_ok (ok : r.status = .ok) (waits : s.watch.occasion = .idle ∨ s.watch.occasion = .queued) :
    exec (.statusWriteResponse r) s = .next (s.taking r.tag).issuePending :=
  exec_statusWrite_quiet hr settled running issued owner ((responseOk_iff r).mpr ok)
    (statusReturned_plain (s := s.taking r.tag) running waits) rfl

/-- A MEM_ERROR that adds no more than another BROKEN event (R111). -/
theorem exec_statusWrite_again (failed : r.status ≠ .ok) (waits : s.watch.occasion = .idle ∨ s.watch.occasion = .queued)
    (fault : (s.taking r.tag).statusFault = (s.taking r.tag).raiseBroken .controlFault) :
    exec (.statusWriteResponse r) s = .next ((s.taking r.tag).raiseBroken .controlFault).issuePending := by
  have note : (s.taking r.tag).noteReturn = s.taking r.tag :=
    noteReturn_same (s := s.taking r.tag) (by rcases waits with h | h <;> exact fun bad => by simp [State.taking, h] at bad)
  exact exec_statusWrite_quiet hr settled running issued owner (responseOk_false failed)
    (by rw [statusReturned_failed (s := s.taking r.tag) running, note, fault]) rfl

/-- A MEM_ERROR from its delivery to the end of its event, where `u` is what the response leaves before the fault (R111). -/
theorem statusWrite_fails {v : State} (failed : r.status ≠ .ok)
    (fault : (s.taking r.tag).noteReturn.statusFault.issuePending = v) : Faults (.statusWriteResponse r) s (s.taking r.tag).unwatched v :=
  statusFaults hr settled running issued owner (responseOk_false failed)
    ((statusReturned_failed (s := s.taking r.tag) running).trans fault) rfl rfl rfl rfl rfl hr

end

end Sys2Proof.Machine
end


section
/-! SUPPORT. The step that waits for the status write, taken or broken off (R111, R127, R136, R147; log 2 and log 41). -/

namespace Sys2Proof.Machine

/-! ## OPENING and ROLLING, broken off -/

/-- Slots with no request outstanding are gone once the journal is broken (R86). -/
theorem enterBroken_of_idle {s : State} (idle : ∀ j ∈ s.slots, j.busy = false) (c : Cause) :
    s.enterBroken c = State.enterBroken { s with slots := [] } c := by
  have none : s.slots.filter Slot.busy = [] := List.filter_eq_nil_iff.mpr fun j hj => by simp [idle j hj]
  simp only [State.enterBroken, State.breakJournal, abandonSlots, none, List.filter_nil, List.map_nil]

/-- The OPEN record of a fresh epoch is listed before the engine breaks, and its slot is freed again (R127). -/
theorem openingBroken_of_fresh {s : State}
    (empty : s.ring = { head := 0, frontier := 0, tail := 0, highArmed := true, fullReported := false })
    (above : 1 < s.layout.threshold) : s.openingBroken = State.enterBroken { s with
      ring := { s.ring with tail := 1 }, slots := [], segments := [{ seq := 0, tag := 0, source := s.eng.opener.source }]
      watch := { s.watch with occasion := .idle } } .controlFault := by
  have low : State.isHigh { s with
      slots := [{ headerSlot s.openHeader with headerWrite := .notIssued }]
      ring := { s.ring with tail := s.ring.tail + 1 }
      segments := [{ seq := s.ring.tail, tag := 0, source := s.eng.opener.source }]
      watch := { s.watch with occasion := .idle } } = false := by
    simp [State.isHigh, State.occupancy, empty, above]
  rw [State.openingBroken, State.assignOpen, occupancyChanged_of_low low,
    enterBroken_of_idle (fun j hj => by rw [List.mem_singleton.mp hj]; rfl)]
  simp only [empty]

/-- A failed write in OPENING before the OPEN record (R111, R127). -/
theorem openingBroken_issuePending {s : State} (stands : s.watch.outstanding = true)
    (empty : s.ring = { head := 0, frontier := 0, tail := 0, highArmed := true, fullReported := false })
    (above : 1 < s.layout.threshold) : s.openingBroken.issuePending = State.enterBroken { s.unwatched with
      ring := { s.ring with tail := 1 }, slots := []
      segments := [{ seq := 0, tag := 0, source := s.eng.opener.source }] } .controlFault := by
  rw [openingBroken_of_fresh empty above]
  exact issuePending_enterBroken (by exact stands) rfl _

/-- A failed write in ROLLING abandons the rollback (R111, R147). -/
theorem abandonRollback_issuePending {s : State} {p : Replay} (unit : s.replay = some p) (stands : s.watch.outstanding = true) :
    s.abandonRollback.issuePending =
      (State.enterBroken { s.unwatched with replay := none } .controlFault).raiseAbandoned p.target := by
  rw [State.abandonRollback, unit]
  show (State.raiseAbandoned _ _).issuePending = _
  rw [State.raiseAbandoned, issuePending_raise, issuePending_enterBroken (by exact stands) rfl]
  rfl

/-! ## The steps taken -/

/-- The flag of the write that has returned, cleared (R110). -/
def State.writeDone (s : State) : State := { s with watch := { s.watch with outstanding := false } }

theorem beginReplay_of_none {s : State} (unit : s.replay = none) : s.beginReplay = s := by rw [State.beginReplay, unit]

theorem closingFault_returned {s : State} (returned : s.watch.occasion = .returned) :
    s.closingFault = ((s.setEngine .off).raiseBroken .controlFault).closeEpoch := if_pos returned

theorem openRecord_issuePending {s : State} (none : s.watch.updatePending = false) :
    s.openRecord.issuePending = s.writeDone.openRecord :=
  issuePending_none none

theorem closeEpoch_issuePending {s : State} (none : s.watch.updatePending = false) :
    s.closeEpoch.issuePending = s.writeDone.closeEpoch :=
  issuePending_none none

/-- Where a rollback ends at once the write that returned still stands, so that its status write is issued with the response (R111). -/
theorem beginReplay_issuePending {s : State} (none : s.watch.updatePending = false)
    (ends : ∀ p, s.replay = some p → p.target < p.cursor ∨ s.watch.outstanding = true) :
    s.beginReplay.issuePending = s.writeDone.beginReplay := by
  cases unit : s.replay with
  | none =>
    rw [beginReplay_of_none unit, beginReplay_of_none (s := s.writeDone) unit, issuePending_none none, State.writeDone]
  | some p =>
    have start : s.writeDone.walking p = (s.walking p).unwatched := by simp only [State.walking, State.writeDone, State.unwatched, none]
    rw [beginReplay_eq unit, beginReplay_eq (s := s.writeDone) unit, start,
      readReplay_unwatched]
    obtain ⟨watch, k, found, cursor, target⟩ :=
      readReplay_keeps Config.replayPlaces (s.walking p) (p := { p with begun := true }) rfl
    generalize State.readReplay Config.replayPlaces (s.walking p) = x at watch found ⊢
    have idle : x.watch.occasion = .idle := congrArg Watch.occasion watch
    have same : x.unwatched.rollbackDue = x.rollbackDue := rfl
    rw [State.checkRollback, State.checkRollback, same]
    cases due : x.rollbackDue
    · exact issuePending_idle ((congrArg Watch.updatePending watch).trans none) idle
    · have level : k.cursor = k.target := by
        simp [State.rollbackDue, found] at due
        exact due.2.1.2
      have stands : s.watch.outstanding = true := (ends p unit).resolve_left (by rw [← cursor, ← target, level]; exact Nat.lt_irrefl _)
      exact issuePending_endRollback found ((congrArg Watch.outstanding watch).trans stands) idle

theorem goOn_opening {s : State} (returned : s.watch.occasion = .returned) (h : s.eng.state = .opening) : s.goOn = s.openRecord := by
  simp [State.goOn, returned, h]

theorem goOn_rolling {s : State} (returned : s.watch.occasion = .returned) (h : s.eng.state = .rolling) : s.goOn = s.beginReplay := by
  simp [State.goOn, returned, h]

theorem goOn_closing {s : State} (returned : s.watch.occasion = .returned) (h : s.eng.state = .closing) : s.goOn = s.closeEpoch := by
  simp [State.goOn, returned, h]

/-! ## The response, by what waits for it -/

section
variable {s : State} {r : MemResponse} {q : DownRequest} (hr : s.rstn = true)
  (issued : s.down.issuedWith r.tag = some q) (owner : q.owner = .status)
include hr issued owner

/-- The error that ends the closing: BROKEN in OFF, then CLOSED (R135, R136; log 30 and log 41). -/
theorem exec_statusWrite_closes (returned : s.watch.occasion = .inFlight) (none : s.watch.updatePending = false)
    (closing : s.eng.state = .closing) (failed : r.status ≠ .ok) : exec (.statusWriteResponse r) s =
      .next ((((s.taking r.tag).noteReturn.setEngine .off).raiseBroken .controlFault).writeDone).closeEpoch.finish := by
  have delivered : (s.taking r.tag).deliver q r = (s.taking r.tag).statusReturned false := by
    rw [State.deliver, owner, responseOk_false failed]
  have running : (s.taking r.tag).eng.state ≠ .resetting := fun h => by simp [State.taking, closing] at h
  have noted : (s.taking r.tag).noteReturn.watch.occasion = .returned := if_pos returned
  rw [exec_delivered rfl hr issued delivered, statusReturned_failed running, statusFault_closing (by exact closing),
    closingFault_returned noted, closeEpoch_issuePending (by exact none)]

/-- The step that waits for the write is taken as its own command takes it (log 2). -/
theorem exec_statusWrite_goesOn (ok : r.status = .ok) (running : s.eng.state ≠ .resetting) {t : State}
    (step : (s.taking r.tag).noteReturn.goOn.issuePending = t) :
    exec (.statusWriteResponse r) s = .next t.finish := by
  have delivered : (s.taking r.tag).deliver q r = (s.taking r.tag).statusReturned true := by
    rw [State.deliver, owner, (responseOk_iff r).mpr ok]
  rw [exec_delivered rfl hr issued delivered, statusReturned_ok (s := s.taking r.tag) running, step]

end

/-- An event in which the OPEN record is assigned makes no held entry decidable. -/
theorem finish_openRecord {s t : State} (settled : s.Settled) (hold : t.hold = s.hold) (opening : t.eng.state = .opening) :
    t.openRecord.finish = t.openRecord :=
  finish_of_same settled hold (by simp [State.quiesceDue, State.openRecord, State.assignOpen, State.occupancyChanged, State.handHeader, opening])
    (by simp [State.resetDue, State.openRecord, State.assignOpen, State.occupancyChanged, State.handHeader, opening])

end Sys2Proof.Machine
end


section
/-! SUPPORT. O49, by the occasion that waits for the write (R110, R111). -/

namespace Sys2Proof.Machine

section
variable {s : State} {r : MemResponse} {q : DownRequest} (hr : s.rstn = true) (settled : s.Settled)
  (issued : s.down.issuedWith r.tag = some q) (owner : q.owner = .status)
include hr settled issued owner

/-- A failed write before the OPEN record (R111, R127). -/
theorem statusWrite_breaks_opening (failed : r.status ≠ .ok)
    (stands : s.watch.outstanding = true) (opening : s.eng.state = .opening) (listed : s.segments = [])
    (empty : s.ring = { head := 0, frontier := 0, tail := 0, highArmed := true, fullReported := false })
    (above : 1 < s.layout.threshold) :
    ∃ t : State, exec (.statusWriteResponse r) s = .next t.finish ∧ State.BrokenFrom { (s.taking r.tag).unwatched with
      ring := { s.ring with tail := 1 }, slots := []
      segments := [{ seq := 0, tag := 0, source := s.eng.opener.source }] } t .controlFault := by
  have running : s.eng.state ≠ .resetting := by rw [opening]; decide
  have broken : (s.taking r.tag).noteReturn.statusFault.issuePending = _ :=
    (congrArg State.issuePending (statusFault_opening (s := (s.taking r.tag).noteReturn) opening listed)).trans
      (openingBroken_issuePending (s := (s.taking r.tag).noteReturn) stands empty above)
  exact ⟨_, (statusWrite_fails hr settled running issued owner failed broken).exec, enterBroken_brokenFrom _ _⟩

/-- A failed write before the walk of the ring (R111, R147). -/
theorem statusWrite_breaks_rolling (failed : r.status ≠ .ok) (stands : s.watch.outstanding = true) (rolling : s.eng.state = .rolling)
    {p : Replay} (unit : s.replay = some p) :
    ∃ t : State, exec (.statusWriteResponse r) s = .next (t.raiseAbandoned p.target).finish ∧
      State.BrokenFrom { (s.taking r.tag).unwatched with replay := none } t .controlFault := by
  have running : s.eng.state ≠ .resetting := by rw [rolling]; decide
  have broken : (s.taking r.tag).noteReturn.statusFault.issuePending = _ :=
    (congrArg State.issuePending (statusFault_rolling (s := (s.taking r.tag).noteReturn) rolling)).trans
      (abandonRollback_issuePending (s := (s.taking r.tag).noteReturn) unit stands)
  exact ⟨_, (statusWrite_fails hr settled running issued owner failed broken).exec, enterBroken_brokenFrom _ _⟩

omit settled in
/-- What the error that ends the closing leaves (R135, R136; log 30 and log 41). -/
theorem statusWrite_closes (returned : s.watch.occasion = .inFlight) (none : s.watch.updatePending = false)
    (closing : s.eng.state = .closing) (failed : r.status ≠ .ok) (high : s.layout.highWater ≠ 0) (eight : 8 ≤ 2 ^ s.layout.order) :
    ∃ t : State, exec (.statusWriteResponse r) s = .next t.finish ∧
      t.eng = { s.eng with state := .off, epoch := 0, cause := .none, pendingTarget := .none } ∧
      t.ring = { head := 0, frontier := 0, tail := 0, highArmed := true, fullReported := false } ∧
      t.touch = { entries := [], saturated := false } ∧ t.segments = [] ∧
      t.hold = { s.hold with queue := decidableNow [.engine, .slot, .space] s.hold.queue } ∧ t.down = (s.taking r.tag).down ∧
      t.watch = { outstanding := false, updatePending := false, occasion := .idle } ∧
      (s.port.mask.getLsbD 3 = true → s.port.mask.getLsbD 13 = true → s.port.events.length < 31 →
        t.port.events = s.port.events ++
          [{ kind := .broken, state := .off, seq := some s.ring.frontier, detail := some 5
             count := some (s.ring.tail - s.ring.frontier) },
           { kind := .closed, state := .off, seq := some s.ring.frontier, detail := some s.eng.epoch.toNat, count := .none }]) := by
  refine ⟨_, exec_statusWrite_closes hr issued owner returned none closing failed, ?_⟩
  rw [closeEpoch_eq (by exact high) (by exact eight)]
  refine ⟨rfl, rfl, rfl, rfl, ?_, rfl, ?_, fun broken closed room => ?_⟩
  · rw [← wakeEntries_clearedByEngine]; rfl
  · exact congrArg (fun b => ({ outstanding := false, updatePending := b, occasion := .idle } : Watch)) none
  · have both := foldl_append (p := s.port)
      [{ kind := .broken, state := .off, seq := some s.ring.frontier, detail := some 5
         count := some (s.ring.tail - s.ring.frontier) },
       { kind := .closed, state := .off, seq := some s.ring.frontier, detail := some s.eng.epoch.toNat, count := .none }]
      (by simp [Port.enables, EventKind.code, -BitVec.getLsbD_eq_getElem, broken, closed]) (by simp [Config.eventPlaces]; omega)
    exact congrArg Port.events both

/-- An OK that a step waits for is followed by that step (R127, R136, R147). -/
theorem statusWrite_goesOn {c : Instr}
    (step : (s.eng.state, c) ∈ [(EngineState.opening, Instr.openRecordAssign), (.rolling, .replayStart), (.closing, .closingEnd)])
    (returned : s.watch.occasion = .inFlight) (none : s.watch.updatePending = false) (ok : r.status = .ok)
    (ends : ∀ p, s.eng.state = .rolling → s.replay = some p → p.target < p.cursor ∨ s.watch.outstanding = true) :
    exec (.statusWriteResponse r) s = exec c { s.taking r.tag with
      eventNo := s.eventNo, watch := { outstanding := false, updatePending := false, occasion := .returned } } := by
  have noted : (s.taking r.tag).noteReturn.watch.occasion = .returned := if_pos returned
  have done : State.nextEvent { s.taking r.tag with
      eventNo := s.eventNo, watch := { outstanding := false, updatePending := false, occasion := .returned } } =
      (s.taking r.tag).noteReturn.writeDone := by
    rw [State.writeDone, noteReturn_inFlight (s := s.taking r.tag) returned, ← none]
    rfl
  simp only [List.mem_cons, Prod.mk.injEq, List.not_mem_nil, or_false] at step
  rcases step with ⟨opening, rfl⟩ | ⟨rolling, rfl⟩ | ⟨closing, rfl⟩
  · have next := (congrArg State.issuePending (goOn_opening noted opening)).trans (openRecord_issuePending (by exact none))
    rw [exec_statusWrite_goesOn hr issued owner ok (by rw [opening]; decide) next,
      exec_openRecordAssign (by exact hr) (by exact opening) rfl, done, finish_openRecord (t := (s.taking r.tag).noteReturn.writeDone) settled rfl opening]
  · have next := (congrArg State.issuePending (goOn_rolling noted rolling)).trans
      (beginReplay_issuePending (by exact none) fun p unit => ends p rolling unit)
    rw [exec_statusWrite_goesOn hr issued owner ok (by rw [rolling]; decide) next,
      exec_replayStart (by exact hr) (by exact rolling) rfl, done]
  · have next := (congrArg State.issuePending (goOn_closing noted closing)).trans (closeEpoch_issuePending (by exact none))
    rw [exec_statusWrite_goesOn hr issued owner ok (by rw [closing]; decide) next,
      exec_closingEnd (by exact hr) (by exact closing) rfl, done]

end

/-- Settles O49, by the occasion that waits for the write and the status of the response. -/
theorem statusWriteResponse : Obligations.StatusWriteResponse := by
  intro r s q hr settled issued owner running f cleared g again abandoned fails
  have another (x : s.watch.occasion = .idle ∨ s.watch.occasion = .queued) (failed : r.status ≠ .ok)
      (fault : f.statusFault = f.raiseBroken .controlFault) :=
    exec_statusWrite_again hr settled running issued owner failed x fault
  have fail (idle : s.watch.occasion = .idle) (failed : r.status ≠ .ok) {v : State} (fault : f.statusFault.issuePending = v) :
      Faults (.statusWriteResponse r) s g v :=
    statusWrite_fails hr settled running issued owner failed
      ((congrArg (State.issuePending ∘ State.statusFault) (noteReturn_same (s := f) (by simp [f, State.taking, idle]))).trans fault)
  refine ⟨fun idle => ⟨fun ok none => ?_, fun ok pending => ?_, fun failed broken none => ?_, fun failed quiescing known none => ?_,
      fun failed known pending => ?_, fun failing going => ?_, fun m failing quiescing pending => ?_,
      fun failing quiescing other => ?_⟩,
    fun queued pending => ⟨fun ok => ?_, fun failed closing => ?_⟩,
    fun _ failing => ⟨fun opening listed empty above => ?_, fun p rolling unit => ?_⟩,
    fun returned none closing failed high eight => statusWrite_closes hr issued owner returned none closing failed high eight,
    fun c step returned none ok ends => statusWrite_goesOn hr settled issued owner step returned none ok ends⟩
  · rw [exec_statusWrite_ok hr settled running issued owner ok (.inl idle), issuePending_none (by exact none)]; rfl
  · rw [exec_statusWrite_ok hr settled running issued owner ok (.inl idle), issuePending_some (by exact pending),
      show (s.taking r.tag).watch.occasion = _ from idle]; rfl
  · rw [another (.inl idle) failed (statusFault_known (.inl broken)), issuePending_none (by exact none)]; rfl
  · rw [another (.inl idle) failed (statusFault_known (.inr ⟨quiescing, known⟩)), issuePending_none (by exact none)]; rfl
  · rw [another (.inl idle) failed (statusFault_known known), issuePending_some (by exact pending),
      show (f.raiseBroken .controlFault).watch.occasion = _ from idle]; rfl
  · obtain ⟨failed, stands, sound⟩ := failing
    exact (fail idle failed ((congrArg State.issuePending (statusFault_entering (s := f) going)).trans
      (issuePending_enterBroken (by exact stands) (by exact idle) _))).breaks
  · obtain ⟨failed, stands, sound⟩ := failing
    exact (fail idle failed ((congrArg State.issuePending (statusFault_quiescing (s := f) quiescing sound)).trans
      (issuePending_quiesceFault (by exact stands) (by exact idle) _))).abandons pending
  · obtain ⟨failed, stands, sound⟩ := failing
    exact (fail idle failed ((congrArg State.issuePending (statusFault_quiescing (s := f) quiescing sound)).trans
      (issuePending_quiesceFault (by exact stands) (by exact idle) _))).quiesces quiescing sound other
  · rw [exec_statusWrite_ok hr settled running issued owner ok (.inr queued), issuePending_some (by exact pending),
      show (s.taking r.tag).watch.occasion = _ from queued]; rfl
  · have waiting : f.watch.occasion ≠ .returned := fun h => by simp [f, State.taking, queued] at h
    rw [another (.inr queued) failed ((statusFault_closing (s := f) closing).trans (if_neg waiting)),
      issuePending_some (by exact pending), show (f.raiseBroken .controlFault).watch.occasion = _ from queued]; rfl
  · obtain ⟨failed, stands, sound⟩ := failing
    have broken := statusWrite_breaks_opening hr settled issued owner failed stands opening listed empty above
    cases opener : s.eng.opener <;> rw [opener] at broken <;> exact broken
  · obtain ⟨failed, stands, sound⟩ := failing
    exact statusWrite_breaks_rolling hr settled issued owner failed stands rolling unit

end Sys2Proof.Machine
end


section
/-! SUPPORT. DOWNSTREAM_ISSUE: which waiting request goes first, and what follows from its issue (R67, R147, R148, R176, R177). -/

namespace Sys2Proof.Machine

/-! ## The request that may go first -/

/-- A waiting request may be issued when none ahead of it must precede it (R177). -/
theorem issuableFrom_split {ahead l : List DownRequest} {r : DownRequest} (h : r ∈ issuableFrom ahead l) :
    ∃ before behind, l = before ++ r :: behind ∧ ∀ b ∈ ahead ++ before, b.before r = false := by
  induction l generalizing ahead with
  | nil => simp [issuableFrom] at h
  | cons q qs ih =>
    simp only [issuableFrom, List.mem_append] at h
    rcases h with first | later
    · split at first
      · cases first
      · rename_i free
        rw [List.mem_singleton] at first
        subst first
        exact ⟨[], qs, rfl, by simpa using free⟩
    · obtain ⟨before, behind, split, free⟩ := ih later
      refine ⟨q :: before, behind, by rw [split, List.cons_append], fun b hb => free b ?_⟩
      simpa [or_assoc] using hb

theorem picked_issuable {d : DownLink} {pick : Nat} {r : DownRequest} (h : d.picked pick = some r) : r ∈ d.issuable := by
  unfold DownLink.picked at h
  rcases Option.or_eq_some_iff.mp h with h | ⟨-, h⟩
  · exact List.mem_of_getElem? h
  · exact List.mem_of_head? h

theorem picked_of_nil {d : DownLink} (none : d.toIssue = []) (pick : Nat) : d.picked pick = .none := by
  simp [DownLink.picked, DownLink.issuable, none, issuableFrom]

/-- The oldest waiting request may always be issued (R177). -/
theorem picked_of_waiting {d : DownLink} (waits : d.toIssue ≠ []) (pick : Nat) : ∃ r, d.picked pick = some r := by
  obtain ⟨r, rs, list⟩ := List.exists_cons_of_ne_nil waits
  have first : d.issuable.head? = some r := by simp [DownLink.issuable, list, issuableFrom]
  rw [DownLink.picked, first]
  cases d.issuable[pick]? with
  | none => exact ⟨r, rfl⟩
  | some q => exact ⟨q, rfl⟩

/-- What `before` leaves open between two requests (R119, R147, R160, R177). -/
theorem before_eq_false {b r : DownRequest} (h : b.before r = false) : b.event = r.event ∧
    (b.addr ≠ r.addr ∨ b.owner = .status ∨ r.owner = .status) ∧
    (∀ m n, b.owner ∈ [.replayHeader m, .replayData m] → r.owner ∈ [.replayHeader n, .replayData n] → m = n) ∧
    (∀ m n, b.owner ∈ [.scanHeader m, .scanData m] → r.owner ∈ [.scanHeader n, .scanData n] → m = n) := by
  simp only [DownRequest.before, Bool.or_eq_false_iff] at h
  obtain ⟨⟨event, line⟩, order⟩ := h
  refine ⟨by simpa using event, ?_, fun m n hb hr => ?_, fun m n hb hr => ?_⟩
  · by_cases status : b.owner = .status
    · exact .inr (.inl status)
    · by_cases status' : r.owner = .status
      · exact .inr (.inr status')
      · exact .inl (by simpa [DownRequest.sameLine, status, status'] using line)
  all_goals
    simp only [List.mem_cons, List.not_mem_nil, or_false] at hb hr
    rcases hb with hb | hb <;> rcases hr with hr | hr <;> simpa [hb, hr, Owner.seqOrdered] using order

/-! ## Issue -/

/-- The link after a waiting request is issued, with memory's ready from then on (R177; log 3). -/
def DownLink.issuing (d : DownLink) (r : DownRequest) (ready : Bool) : DownLink :=
  { toIssue := d.toIssue.filter fun x => x.tag ≠ r.tag, issued := d.issued ++ [r], ready := ready }

/-- An issued request is still a request of the device (R193). -/
theorem issuing_internalBusy {d : DownLink} {r : DownRequest} (waits : r ∈ d.toIssue) (ready : Bool) :
    (d.issuing r ready).internalBusy = d.internalBusy := by
  rw [Bool.eq_iff_iff]
  simp only [DownLink.internalBusy, DownLink.issuing, Bool.or_eq_true, List.any_eq_true, decide_eq_true_eq, List.mem_filter, List.mem_append,
    List.mem_singleton]
  constructor
  · rintro (⟨x, ⟨hx, -⟩, high⟩ | ⟨x, hx | rfl, high⟩)
    · exact .inl ⟨x, hx, high⟩
    · exact .inr ⟨x, hx, high⟩
    · exact .inl ⟨x, waits, high⟩
  · rintro (⟨x, hx, high⟩ | ⟨x, hx, high⟩)
    · by_cases same : x.tag = r.tag
      · exact .inr ⟨r, .inr rfl, same ▸ high⟩
      · exact .inl ⟨x, ⟨hx, same⟩, high⟩
    · exact .inr ⟨x, .inl hx, high⟩

/-- The state after a waiting request is issued, before anything follows from it. -/
def State.issuing (s : State) (r : DownRequest) (ready : Bool) : State := { s.nextEvent with down := s.down.issuing r ready }

theorem exec_downstreamIssue_none {s : State} {pick : Nat} {ready : Bool} (hr : s.rstn = true) (none : s.down.picked pick = .none) :
    exec (.downstreamIssue ⟨pick, ready⟩) s = .next { s.nextEvent with down := { s.down with ready := ready } } := by
  have picked : s.nextEvent.down.picked pick = .none := none
  show execDownstreamIssue ⟨pick, ready⟩ s = _
  rw [execDownstreamIssue, running_of_high hr, picked]
  rfl

theorem exec_downstreamIssue {s : State} {pick : Nat} {ready : Bool} {r : DownRequest} (hr : s.rstn = true)
    (picked : s.down.picked pick = some r) : exec (.downstreamIssue ⟨pick, ready⟩) s =
      .next (State.issue { s.nextEvent with down := { s.down with ready := ready } } r).finish := by
  have picked' : s.nextEvent.down.picked pick = some r := picked
  show execDownstreamIssue ⟨pick, ready⟩ s = _
  rw [execDownstreamIssue, running_of_high hr, picked']
  rfl

/-- A request of the device's own that is no restoring write: nothing follows from its issue (R177). -/
theorem issue_of_own {s : State} {r : DownRequest} {ready : Bool} (own : r.owner ≠ .forward) (plain : ∀ q, r.owner ≠ .restore q) :
    State.issue { s.nextEvent with down := { s.down with ready := ready } } r = s.issuing r ready := by
  unfold State.issue
  split
  · rename_i h; exact absurd h own
  · rename_i q h; exact absurd h (plain q)
  all_goals rfl

theorem issue_of_restore {s : State} {r : DownRequest} {ready : Bool} {n : Nat} {p : Replay} (owner : r.owner = .restore n)
    (rolling : s.eng.state = .rolling) (unit : s.replay = some p) :
    State.issue { s.nextEvent with down := { s.down with ready := ready } } r =
      State.goOnReplay { s.issuing r ready with replay := some { p with cursor := n - 1 } } := by
  rw [State.issue, owner]
  show State.restoreIssued (s.issuing r ready) n = _
  rw [State.restoreIssued, show (s.issuing r ready).replay = some p from unit]
  exact if_pos rolling

theorem issue_of_forward {s : State} {r : DownRequest} {ready : Bool} (owner : r.owner = .forward) :
    State.issue { s.nextEvent with down := { s.down with ready := ready } } r = (s.issuing r ready).forwardIssued (r.tag.truncate 6) := by
  rw [State.issue, owner]
  rfl

/-- Where the issue leaves the hold queue as it was, the event is over. -/
theorem finish_issuing {s t : State} {r : DownRequest} {ready : Bool} (settled : s.Settled) (waits : r ∈ s.down.toIssue)
    (hold : t.hold = s.hold) (eng : t.eng = s.eng) (slots : t.slots = s.slots) (down : t.down = s.down.issuing r ready) :
    t.finish = t :=
  finish_of_same settled hold (by simpa [State.quiesceDue, eng, slots] using settled.quiesce)
    (by rw [State.resetDue, eng, down, issuing_internalBusy waits]; exact settled.reset)

/-! ## The replay unit, while its cursor waits -/

theorem replayOutcome_pending {x : ReplayPlace} (h : x.header = .outstanding ∨ x.data = .outstanding) (e : Epoch) :
    replayOutcome x e = .pending := by
  unfold replayOutcome
  rcases h with h | h <;> cases k : x.header <;> cases l : x.data <;> simp_all

/-- Settling waits for the reads, or for the restoring write, of the seq at the cursor (R148, R149). -/
theorem settleReplay_waits {s : State} {p : Replay} (unit : s.replay = some p)
    (waits : ∀ x ∈ p.places, x.seq = p.cursor → x.writing = true ∨ x.header = .outstanding ∨ x.data = .outstanding) (n : Nat) :
    State.settleReplay n s = s := by
  cases n with
  | zero => rfl
  | succ n =>
    rw [State.settleReplay, unit]
    dsimp only
    split
    · rfl
    · rename_i x found
      have here := List.find?_some found
      simp only [Bool.and_eq_true, decide_eq_true_eq, Bool.not_eq_true'] at here
      obtain ⟨seq, idle⟩ := here
      have reading := (waits x (List.mem_of_find?_eq_some found) seq).resolve_left (by simp [idle])
      rw [replayOutcome_pending reading]

theorem goOnReplay_waits {s : State} {p : Replay} (unit : s.replay = some p) (some : p.places ≠ [])
    (waits : ∀ x ∈ p.places, x.seq = p.cursor → x.writing = true ∨ x.header = .outstanding ∨ x.data = .outstanding) :
    s.goOnReplay = s := by
  rw [State.goOnReplay, settleReplay_waits unit waits, checkRollback_of_places unit some]

end Sys2Proof.Machine
end


section
/-! SUPPORT. O45: a held request is issued, and the statement's cases (R65, R67, R71, R176, R177). -/

namespace Sys2Proof.Machine

/-! ## The queue after a held request has left it, place by place -/

/-- Entry i of the queue is the first for the line, and held LINE (R65). -/
def FirstLine (x : Addr) (q : List Entry) (i : Nat) (h : i < q.length) : Prop :=
  q[i].wait = .line ∧ q[i].req.line = x ∧ ∀ (j : Nat) (hj : j < i), q[j].req.line ≠ x

open Classical in
/-- The first entry for the line becomes decidable if it is held LINE, and no other entry changes (R65). -/
theorem getElem?_wakeLine (x : Addr) (q : List Entry) (i : Nat) (h : i < q.length) :
    (wakeLine x q)[i]? = some (if FirstLine x q i h then { q[i] with wait := .ready } else q[i]) := by
  induction q generalizing i with
  | nil => cases h
  | cons e es ih =>
    rw [wakeLine]
    by_cases own : e.req.line = x
    · rw [if_pos own]
      cases i with
      | zero =>
        have first : FirstLine x (e :: es) 0 h ↔ e.wait = .line := by simp [FirstLine, own]
        rw [List.getElem?_cons_zero, List.getElem_cons_zero]
        exact congrArg some (if_congr first.symm rfl rfl)
      | succ i =>
        have later : ¬ FirstLine x (e :: es) (i + 1) h := fun first => first.2.2 0 (Nat.succ_pos i) own
        rw [if_neg later, List.getElem?_cons_succ, List.getElem_cons_succ]
        exact List.getElem?_eq_getElem _
    · rw [if_neg own]
      cases i with
      | zero =>
        have other : ¬ FirstLine x (e :: es) 0 h := fun first => own first.2.1
        rw [if_neg other]
        rfl
      | succ i =>
        have same : FirstLine x (e :: es) (i + 1) h ↔ FirstLine x es i (Nat.lt_of_succ_lt_succ h) := by
          refine and_congr Iff.rfl (and_congr Iff.rfl ⟨fun none j hj => none (j + 1) (Nat.succ_lt_succ hj), fun none j hj => ?_⟩)
          cases j with
          | zero => exact own
          | succ j => exact none j (Nat.lt_of_succ_lt_succ hj)
        rw [List.getElem?_cons_succ, List.getElem_cons_succ, ih i (Nat.lt_of_succ_lt_succ h)]
        exact congrArg some (if_congr same.symm rfl rfl)

theorem wakeLine_of_other {x : Addr} {q : List Entry} (other : ∀ e ∈ q, e.req.line ≠ x) : wakeLine x q = q := by
  induction q with
  | nil => rfl
  | cons e es ih =>
    rw [wakeLine, if_neg (other e List.mem_cons_self), ih fun k hk => other k (List.mem_cons_of_mem e hk)]

theorem offerSlots_of_none {q : List Entry} (none : ∀ e ∈ q, e.wait ≠ .slot) (b : Bool) : offerSlots b q = q := by
  rw [offerSlots_eq]
  exact (List.map_congr_left fun e he => if_neg fun slot => none e he slot.2).trans (List.map_id _)

open Classical in
/-- Each entry of the queue that is left when the request has left it and its slot is freed (R65). -/
theorem getElem?_offerSlots_wakeLine (b : Bool) (x : Addr) (q : List Entry) (i : Nat) (h : i < q.length) :
    (offerSlots b (wakeLine x q))[i]? = some
      (if FirstLine x q i h ∨ (q[i].wait = .slot ∧ b = true) then { q[i] with wait := .ready } else q[i]) := by
  rw [offerSlots_eq, List.getElem?_map, getElem?_wakeLine x q i h]
  refine congrArg some ?_
  by_cases first : FirstLine x q i h
  · rw [if_pos first, if_pos (.inl first)]
    exact if_neg fun slot => by cases slot.2
  · rw [if_neg first]
    exact if_congr (by simp [first, and_comm]) rfl rfl

/-! ## A held request is issued -/

/-- The pending forward is issued (R176). -/
theorem forwardIssued_of_pending {s : State} {t : UpTag} (pending : s.up.pendingForward = some t)
    (absent : ∀ e ∈ s.hold.queue, e.req.tag ≠ t) : s.forwardIssued t = { s with up := { s.up with pendingForward := none } } := by
  have none : (s.hold.queue.find? fun e => decide (e.req.tag = t) && decide (e.wait = .issue)) = .none :=
    List.find?_eq_none.mpr fun e he => by simp [absent e he]
  rw [State.forwardIssued, if_pos pending]
  dsimp only
  rw [none]

/-- A held request is issued: it is the only one with its tag (R67). -/
theorem forwardIssued_of_held {s : State} {e : Entry} (none : s.up.pendingForward = none) (held : e ∈ s.hold.queue)
    (wait : e.wait = .issue) (alone : ∀ q ∈ s.hold.queue, q ≠ e → q.req.tag ≠ e.req.tag) :
    s.forwardIssued e.req.tag = s.issuedAll [e] := by
  have some : ∃ k, (s.hold.queue.find? fun k => decide (k.req.tag = e.req.tag) && decide (k.wait = .issue)) = some k :=
    Option.isSome_iff_exists.mp (List.find?_isSome.mpr ⟨e, held, by simp [wait]⟩)
  obtain ⟨k, found⟩ := some
  have tag := List.find?_some found
  simp only [Bool.and_eq_true, decide_eq_true_eq] at tag
  have same : k = e := by_contra fun other => alone k (List.mem_of_find?_eq_some found) other tag.1
  have up : ({ s with up := { s.up with pendingForward := .none } } : State) = s := by rw [← none]
  rw [State.forwardIssued, none, if_neg nofun, up, found, same]
  exact entryIssued_eq s e

/-- The queue that is left holds no entry to be decided, when the request's line and its slot concern none of them. -/
theorem finish_issuedAll {s t : State} {e : Entry} (settled : s.Settled) (queue : t.hold.queue = s.hold.queue.filter fun q => q.req.tag ≠ e.req.tag)
    (waiting : t.hold.waiting = none) (going : t.eng.state ≠ .quiescing) (reset : t.resetDue = false) : t.finish = t := by
  refine finish_of_settled ⟨?_, .inl waiting, by simp [State.quiesceDue, going], reset⟩
  rw [State.firstReady, queue, List.find?_eq_none]
  exact fun k hk ready => not_ready_of_settled settled k (List.mem_filter.mp hk).1 (of_decide_eq_true ready)

/-- What the issue of a held request leaves, item by item (R65, R67, R71). -/
theorem issuedAll_held {s : State} {e : Entry} :
    let rest := s.hold.queue.filter fun q => q.req.tag ≠ e.req.tag
    let freed := (s.eng.state = .active ∨ s.eng.state = .stalled) ∧ ∃ j ∈ s.slots, j.held = some e.req.tag ∧ j.header.seq < s.ring.frontier
    (s.issuedAll [e]).slots = (s.slots.filter fun j => j.held ≠ some e.req.tag ∨ s.ring.frontier ≤ j.header.seq) ∧
      (s.frees (keptBy s.ring.frontier [e]) = true ↔ freed) ∧
      (s.issuedAll [e]).hold.queue = offerSlots (s.frees (keptBy s.ring.frontier [e])) (wakeLine e.req.line rest) := by
  refine ⟨List.filter_congr fun j _ => ?_, ?_, rfl⟩
  · simp [keptBy]
  · simp [State.frees, keptBy]

/-- Settles O45, by the owner of the request that is issued. -/
theorem requestIssued : Obligations.RequestIssued := by
  intro s pick ready hr
  refine ⟨fun none => exec_downstreamIssue_none hr (picked_of_nil none pick), fun waits => picked_of_waiting waits pick,
    fun r picked => ⟨?_, fun settled => ?_⟩⟩
  · obtain ⟨before, behind, split, free⟩ := issuableFrom_split (picked_issuable picked)
    exact ⟨before, behind, split, fun b hb => before_eq_false (free b (by simpa using hb))⟩
  · intro d
    have waits := picked_mem picked
    have exec := exec_downstreamIssue (ready := ready) hr picked
    have restores {n : Nat} {p : Replay} (owner : r.owner = .restore n) (rolling : s.eng.state = .rolling) (unit : s.replay = some p) :=
      exec.trans (congrArg (fun t => Host.Outcome.next (State.finish t)) (issue_of_restore (ready := ready) owner rolling unit))
    have quiet {v : State} (issued : State.issue { s.nextEvent with down := { s.down with ready := ready } } r = v)
        (hold : v.hold = s.hold) (eng : v.eng = s.eng) (slots : v.slots = s.slots) (down : v.down = s.down.issuing r ready) :
        Machine.exec (.downstreamIssue ⟨pick, ready⟩) s = .next v := by
      rw [exec, issued, finish_issuing settled waits hold eng slots down]
    refine ⟨fun own plain => quiet (issue_of_own own plain) rfl rfl rfl rfl, fun n p owner rolling unit => restores owner rolling unit,
      fun n p owner rolling unit some waiting => ?restore, fun owner pending absent none => ?pending,
      fun e owner none held tag wait alone => ?held⟩
    case restore =>
      have still : State.goOnReplay { s.issuing r ready with replay := Option.some { p with cursor := n - 1 } } = _ :=
        goOnReplay_waits rfl some fun x hx seq => by
          rcases waiting x hx seq with h | h | h
          · exact .inr (.inl h)
          · exact .inr (.inr h)
          · exact .inl h
      exact quiet ((issue_of_restore owner rolling unit).trans still) rfl rfl rfl rfl
    case pending =>
      exact quiet ((issue_of_forward owner).trans (forwardIssued_of_pending (s := s.issuing r ready) pending absent)) rfl rfl rfl rfl
    case held =>
      have issued : State.issue { s.nextEvent with down := { s.down with ready := ready } } r = (s.issuing r ready).issuedAll [e] := by
        rw [issue_of_forward owner, ← tag]
        exact forwardIssued_of_held none held wait alone
      rw [issued] at exec
      obtain ⟨slots, frees, queue⟩ := issuedAll_held (s := s.issuing r ready) (e := e)
      intro rest freed
      refine ⟨_, exec, ?_, ?_, fun i h => ?_, fun others noWait going => ?_⟩
      · exact congrArg (fun l => ({ s.issuing r ready with
          slots := l, hold := { s.hold with queue := ((s.issuing r ready).issuedAll [e]).hold.queue } } : State)) slots
      · rw [queue, offerSlots_eq, List.length_map, wakeLine_length]; rfl
      · classical
        rw [queue]
        refine (getElem?_offerSlots_wakeLine _ e.req.line rest i h).trans (congrArg some (if_congr ?_ rfl rfl))
        exact or_congr Iff.rfl (and_congr Iff.rfl frees)
      · have same : ((s.issuing r ready).issuedAll [e]).hold.queue = rest :=
          queue.trans ((congrArg _ (wakeLine_of_other fun q hq => (others q hq).1)).trans
            (offerSlots_of_none (fun q hq => (others q hq).2) _))
        have reset : ((s.issuing r ready).issuedAll [e]).resetDue = false := by
          have busy := issuing_internalBusy waits ready
          exact (congrArg (fun b => decide (s.eng.state = .resetting) && !b) busy).trans settled.reset
        rw [finish_issuedAll (t := (s.issuing r ready).issuedAll [e]) settled same noWait going reset, ← same]
        rfl

end Sys2Proof.Machine
end


section
/-! SUPPORT. The replay unit settles the seq at its cursor, seq after seq (R147, R148, R149, R152; log 3 and log 44). -/

namespace Sys2Proof.Machine

/-! ## The outcome of a seq -/

/-- A slot without a restoring write: a fault, counted as 1, or a record of another kind, counted as 0 (R148). -/
def ReplayPlace.Dropped (x : ReplayPlace) (n : Nat) (e : Epoch) (fault : Nat) : Prop :=
  (fault = 1 ∧ x.header ≠ .outstanding ∧ x.data ≠ .outstanding ∧
    ∀ h d, x.header = .ok h → x.data = .ok d → recordValid h d n e = false) ∨
  (fault = 0 ∧ ∃ h d, x.header = .ok h ∧ x.data = .ok d ∧ recordValid h d n e = true ∧ lineField h 0 1 ≠ 2)

theorem replayOutcome_restore {x : ReplayPlace} {e : Epoch} {h d : Line} (header : x.header = .ok h) (data : x.data = .ok d)
    (valid : recordValid h d x.seq e = true) (change : lineField h 0 1 = 2) : replayOutcome x e = .restore (readLine h) d := by
  have kind : readKind h = RecordKind.change.code := change
  simp [replayOutcome, header, data, valid, kind]

theorem replayOutcome_skip {x : ReplayPlace} {e : Epoch} {h d : Line} (header : x.header = .ok h) (data : x.data = .ok d)
    (valid : recordValid h d x.seq e = true) (other : lineField h 0 1 ≠ 2) : replayOutcome x e = .skip := by
  have kind : readKind h ≠ RecordKind.change.code := other
  simp [replayOutcome, header, data, valid, kind]

theorem replayOutcome_fault {x : ReplayPlace} {e : Epoch} (header : x.header ≠ .outstanding) (data : x.data ≠ .outstanding)
    (bad : ∀ h d, x.header = .ok h → x.data = .ok d → recordValid h d x.seq e = false) : replayOutcome x e = .fault := by
  unfold replayOutcome
  split
  · rename_i h; exact absurd h header
  · rename_i h; exact absurd h data
  · rename_i h; exact absurd h data
  · rfl
  · rfl
  · rfl
  · rename_i h d hh hd
    rw [if_pos (by rw [bad h d hh hd]; rfl)]

/-! ## The place at the cursor -/

/-- The place x of the seq at the replay cursor, with the places around it, none of them for that seq. -/
structure Replay.At (p : Replay) (before after : List ReplayPlace) (x : ReplayPlace) : Prop where
  places : p.places = before ++ x :: after
  seq : x.seq = p.cursor
  idle : x.writing = false
  others : ∀ y ∈ before ++ after, y.seq ≠ p.cursor

section
variable {p : Replay} {before after : List ReplayPlace} {x : ReplayPlace} (here : p.At before after x)
include here

theorem Replay.At.found : (p.places.find? fun x => decide (x.seq = p.cursor) && !x.writing) = some x := by
  have ahead : ∀ y ∈ before, ¬ (decide (y.seq = p.cursor) && !y.writing) = true := fun y hy => by
    simp [here.others y (List.mem_append_left after hy)]
  rw [here.places, List.find?_append, List.find?_eq_none.mpr ahead, Option.none_or, List.find?_cons]
  simp [here.seq, here.idle]

theorem Replay.At.dropped : (p.places.filter fun y => y.seq ≠ x.seq) = before ++ after := by
  have rest : (before ++ after).filter (fun y => decide (y.seq ≠ x.seq)) = before ++ after :=
    List.filter_eq_self.mpr fun y hy => by simpa [here.seq] using here.others y hy
  rw [here.places, List.filter_append, List.filter_cons_of_neg (by simp), ← List.filter_append, rest]

theorem Replay.At.written : (p.places.map fun y => if y.seq = x.seq then { y with writing := true } else y) =
    before ++ { x with writing := true } :: after := by
  have rest (l : List ReplayPlace) (h : ∀ y ∈ l, y ∈ before ++ after) :
      (l.map fun y => if y.seq = x.seq then { y with writing := true } else y) = l :=
    (List.map_congr_left fun y hy => if_neg (by rw [here.seq]; exact here.others y (h y hy))).trans (List.map_id l)
  rw [here.places, List.map_append, List.map_cons, if_pos rfl, rest before fun y hy => List.mem_append_left after hy,
    rest after fun y hy => List.mem_append_right before hy]

theorem Replay.At.length : p.places.length = (before ++ after).length + 1 := by
  rw [here.places, List.length_append, List.length_cons, List.length_append]; rfl

end

/-! ## One settling -/

/-- The unit reads one slot more, if one is left (R147). -/
theorem readReplay_replayReads {s : State} {k : Replay} (begun : k.begun = true)
    (room : k.places.length < 8 ∨ k.readCursor ≤ k.target) : State.readReplay 1 { s with replay := some k } = s.replayReads k := by
  by_cases more : k.target < k.readCursor
  · rw [readReplay_of_room rfl begun (room.resolve_right (Nat.not_le.mpr more)) more, State.replayReads, if_pos more]
    rfl
  · rw [readReplay_of_done rfl (fun due => more due.2.2), State.replayReads, if_neg more]

/-- The state in which the restoring write of the seq at the cursor is handed (R148). -/
def State.restoring (s : State) (p : Replay) (before after : List ReplayPlace) (x : ReplayPlace) (h d : Line) (cursor : Nat) : State :=
  State.handOwn { s with replay := some { p with places := before ++ { x with writing := true } :: after, cursor := cursor } }
    (.write d) (.ofNat 40 (lineField h 16 5)) (BitVec.allOnes 64) (.restore x.seq)

/-- The replay unit once the seq at the cursor is settled without a write (R148). -/
def Replay.dropping (p : Replay) (rest : List ReplayPlace) (n fault : Nat) : Replay :=
  { p with places := rest, faults := p.faults + fault, cursor := n - 1 }

section
variable {s : State} {p : Replay} {before after : List ReplayPlace} {x : ReplayPlace} (unit : s.replay = some p)
  (here : p.At before after x)
include unit here

theorem settleReplay_restores {h d : Line} (header : x.header = .ok h) (data : x.data = .ok d)
    (valid : recordValid h d x.seq s.eng.epoch = true) (change : lineField h 0 1 = 2) (m : Nat) :
    State.settleReplay (m + 1) s = if s.issuesAtOnce then State.settleReplay m (s.restoring p before after x h d (x.seq - 1))
      else s.restoring p before after x h d p.cursor := by
  rw [State.settleReplay, unit]
  dsimp only
  rw [here.found]
  dsimp only
  rw [replayOutcome_restore header data valid change]
  dsimp only
  rw [here.written]
  rfl

theorem settleReplay_drops {fault : Nat} (begun : p.begun = true) (full : p.places.length ≤ 8)
    (drop : x.Dropped x.seq s.eng.epoch fault) (m : Nat) :
    State.settleReplay (m + 1) s = State.settleReplay m (s.replayReads (p.dropping (before ++ after) x.seq fault)) := by
  have room : (before ++ after).length < 8 := by have := here.length; omega
  have settled : p.settled x.seq fault = p.dropping (before ++ after) x.seq fault := by
    rw [Replay.settled, here.dropped]; rfl
  have reads : State.readReplay 1 { s with replay := some (p.settled x.seq fault) } =
      s.replayReads (p.dropping (before ++ after) x.seq fault) := by
    rw [settled]; exact readReplay_replayReads begun (.inl room)
  rw [State.settleReplay, unit]
  dsimp only
  rw [here.found]
  dsimp only
  rcases drop with ⟨rfl, header, data, bad⟩ | ⟨rfl, h, d, header, data, valid, other⟩
  · rw [replayOutcome_fault header data bad, ← reads]
  · rw [replayOutcome_skip header data valid other, ← reads]

end

/-! ## Settling goes on -/

/-- The fuel of one settling less is as good, with a place free or a write outstanding. -/
theorem goOnReplay_of_returned {s : State} {p : Replay} (unit : s.replay = some p) (few : p.returned ≤ 7) :
    (State.settleReplay 8 s).checkRollback = s.goOnReplay := by
  rw [State.goOnReplay, settleReplay_enough 7 s fun k hk => by rw [unit] at hk; cases hk; exact few]
  rfl

theorem restoring_returned {p : Replay} {before after : List ReplayPlace} {x : ReplayPlace} (here : p.At before after x)
    (full : p.places.length ≤ 8) (cursor : Nat) :
    Replay.returned { p with places := before ++ { x with writing := true } :: after, cursor := cursor } ≤ 7 := by
  have le := List.countP_le_length (p := ReplayPlace.returned) (l := before ++ after)
  have count := here.length
  have same : (before ++ { x with writing := true } :: after).countP ReplayPlace.returned =
      (before ++ after).countP ReplayPlace.returned := by
    rw [List.countP_append, List.countP_cons_of_neg (by simp [ReplayPlace.returned]), ← List.countP_append]
  show (before ++ { x with writing := true } :: after).countP ReplayPlace.returned ≤ 7
  omega

/-- The place that is taken anew, if any, has both reads outstanding (R147). -/
theorem replayReads_unit (s : State) (k : Replay) : ∃ l : List ReplayPlace, (∀ y ∈ l, y.header = .outstanding) ∧ ∃ r,
    (s.replayReads k).replay = some { k with places := k.places ++ l, readCursor := r } := by
  rw [State.replayReads]
  split
  · exact ⟨[freshReplayPlace k.readCursor], by simp [freshReplayPlace], _, rfl⟩
  · exact ⟨[], by simp, k.readCursor, by rw [List.append_nil]⟩

@[simp] theorem replayReads_frame (s : State) (k : Replay) : (s.replayReads k).eng = s.eng ∧ (s.replayReads k).hold = s.hold ∧
    (s.replayReads k).slots = s.slots := by
  rw [State.replayReads]
  split <;> exact ⟨rfl, rfl, rfl⟩

theorem replayReads_goOn {s : State} {k : Replay} (few : k.places.length ≤ 7) :
    (State.settleReplay 8 (s.replayReads k)).checkRollback = (s.replayReads k).goOnReplay := by
  obtain ⟨l, reading, r, unit⟩ := replayReads_unit s k
  refine goOnReplay_of_returned unit ?_
  have none : l.countP ReplayPlace.returned = 0 := List.countP_eq_zero.mpr fun y hy => by
    simp [ReplayPlace.returned, reading y hy]
  have le := List.countP_le_length (p := ReplayPlace.returned) (l := k.places)
  show (k.places ++ l).countP ReplayPlace.returned ≤ 7
  rw [List.countP_append]
  omega

/-- With the seq at the cursor still to be read or written, the unit goes on only where it is at its end (R148, R152). -/
theorem goOnReplay_of_waiting {s : State} {p : Replay} (rolling : s.eng.state = .rolling) (unit : s.replay = some p) (begun : p.begun = true)
    (waits : ∀ x ∈ p.places, x.seq = p.cursor → x.writing = true ∨ x.header = .outstanding ∨ x.data = .outstanding) :
    s.goOnReplay = if p.cursor = p.target ∧ p.places = [] then s.endRollback else s := by
  have due : s.rollbackDue = true ↔ p.cursor = p.target ∧ p.places = [] := by
    simp [State.rollbackDue, rolling, unit, begun]
  rw [State.goOnReplay, settleReplay_waits unit waits, State.checkRollback]
  exact if_congr due rfl rfl

theorem goOnReplay_restores {s : State} {p : Replay} {before after : List ReplayPlace} {x : ReplayPlace} (unit : s.replay = some p)
    (here : p.At before after x) (full : p.places.length ≤ 8) {h d : Line} (header : x.header = .ok h) (data : x.data = .ok d)
    (valid : recordValid h d x.seq s.eng.epoch = true) (change : lineField h 0 1 = 2) :
    s.goOnReplay = if s.issuesAtOnce then (s.restoring p before after x h d (x.seq - 1)).goOnReplay
      else s.restoring p before after x h d p.cursor := by
  rw [State.goOnReplay, settleReplay_restores unit here header data valid change]
  split
  · exact goOnReplay_of_returned rfl (restoring_returned here full (x.seq - 1))
  · exact checkRollback_of_places rfl (by simp)

theorem goOnReplay_drops {s : State} {p : Replay} {before after : List ReplayPlace} {x : ReplayPlace} {fault : Nat}
    (unit : s.replay = some p) (here : p.At before after x) (begun : p.begun = true) (full : p.places.length ≤ 8)
    (drop : x.Dropped x.seq s.eng.epoch fault) :
    s.goOnReplay = (s.replayReads (p.dropping (before ++ after) x.seq fault)).goOnReplay := by
  have few : (p.dropping (before ++ after) x.seq fault).places.length ≤ 7 := by
    have := here.length
    show (before ++ after).length ≤ 7
    omega
  rw [State.goOnReplay, settleReplay_drops unit here begun full drop]
  exact replayReads_goOn few

/-- A slot read above the target leaves the rollback going on (R147, R152). -/
theorem replayReads_goOn_waits {s : State} {k : Replay} (more : k.target < k.cursor)
    (waits : ∀ x ∈ k.places, x.seq = k.cursor → x.writing = true ∨ x.header = .outstanding ∨ x.data = .outstanding) :
    (s.replayReads k).goOnReplay = s.replayReads k := by
  obtain ⟨l, reading, r, unit⟩ := replayReads_unit s k
  have still : ∀ x ∈ k.places ++ l, x.seq = k.cursor → x.writing = true ∨ x.header = .outstanding ∨ x.data = .outstanding :=
    fun x hx seq => (List.mem_append.mp hx).elim (fun h => waits x h seq) fun h => .inr (.inl (reading x h))
  have early : (s.replayReads k).rollbackDue = false := by
    simp [State.rollbackDue, unit, Nat.ne_of_gt more]
  rw [State.goOnReplay, settleReplay_waits unit still, State.checkRollback, early]
  rfl

end Sys2Proof.Machine
end


section
/-! SUPPORT. The responses of the replay unit (R147, R148, R149, R152). -/

namespace Sys2Proof.Machine

/-- The places once a read of the seq n has returned (R148). -/
def Replay.noted (p : Replay) (q : DownRequest) (n : Nat) (read : ReadState) : List ReplayPlace :=
  p.places.map fun x => if x.seq = n then
    (if q.owner = .replayHeader n then { x with header := read } else { x with data := read }) else x

theorem responseRead_eq (r : MemResponse) : responseRead r = if r.status = .ok then .ok r.data else .error :=
  if_congr (responseOk_iff r) rfl rfl

theorem noted_length (p : Replay) (q : DownRequest) (n : Nat) (read : ReadState) : (p.noted q n read).length = p.places.length :=
  List.length_map _

/-- Nothing more comes of an event of the replay unit that leaves the held entries alone. -/
theorem finish_rolling {s t : State} (settled : s.Settled) (hold : t.hold = s.hold) (rolling : t.eng.state = .rolling) :
    t.finish = t :=
  finish_of_same settled hold (by simp [State.quiesceDue, rolling]) (by simp [State.resetDue, rolling])

section
variable {s : State} {r : MemResponse} {q : DownRequest} {n : Nat} {p : Replay} (hr : s.rstn = true)
  (issued : s.down.issuedWith r.tag = some q) (rolling : s.eng.state = .rolling) (unit : s.replay = some p)
include hr issued rolling unit

theorem exec_replayRead (owner : q.owner = .replayHeader n ∨ q.owner = .replayData n) :
    exec (.replayReadResponse r) s = .next (State.goOnReplay { s.taking r.tag with
      replay := some { p with places := p.noted q n (if r.status = .ok then .ok r.data else .error) } }).finish := by
  refine exec_delivered rfl hr issued ?_
  have unit' : (s.taking r.tag).replay = some p := unit
  have returned (note : ReplayPlace → ReplayPlace) : (s.taking r.tag).replayReturned n note =
      State.goOnReplay { s.taking r.tag with
        replay := some { p with places := p.places.map fun x => if x.seq = n then note x else x } } := by
    rw [State.replayReturned, unit']
    exact if_pos rolling
  rw [← responseRead_eq, Replay.noted]
  rcases owner with header | data
  · have delivered : (s.taking r.tag).deliver q r = (s.taking r.tag).replayReturned n fun x =>
        { x with header := responseRead r } := by rw [State.deliver, header]
    rw [delivered, returned]
    simp only [header, if_true]
  · have delivered : (s.taking r.tag).deliver q r = (s.taking r.tag).replayReturned n fun x =>
        { x with data := responseRead r } := by rw [State.deliver, data]
    rw [delivered, returned]
    simp only [data, reduceCtorEq, if_false]

/-- The replay unit when a restoring write has returned (R149). -/
def Replay.restored (p : Replay) (n : Nat) (r : MemResponse) : Replay :=
  { p with
    places := p.places.filter fun x => x.seq ≠ n
    replayed := p.replayed + if r.status = .ok then 1 else 0
    faults := p.faults + if r.status = .ok then 0 else 1 }

theorem exec_restoringWrite (owner : q.owner = .restore n) (begun : p.begun = true)
    (room : (p.restored n r).places.length < 8 ∨ p.readCursor ≤ p.target) :
    exec (.restoringWriteAck r) s = .next ((s.taking r.tag).replayReads (p.restored n r)).goOnReplay.finish := by
  refine exec_delivered rfl hr issued ?_
  have unit' : (s.taking r.tag).replay = some p := unit
  have counted : ({ p with
      places := p.places.filter fun x => x.seq ≠ n
      replayed := p.replayed + (responseOk r).toNat, faults := p.faults + (!responseOk r).toNat } : Replay) = p.restored n r := by
    by_cases ok : r.status = .ok
    · simp [Replay.restored, ok, (responseOk_iff r).mpr ok]
    · simp [Replay.restored, ok, responseOk_false ok]
  have delivered : (s.taking r.tag).deliver q r = (s.taking r.tag).restoreReturned n r := by rw [State.deliver, owner]
  rw [delivered, State.restoreReturned, unit', ← readReplay_replayReads (k := p.restored n r) begun room, ← counted]
  exact if_pos rolling

/-- A read that leaves the seq at the cursor to be read or written is noted, and no more (R148). -/
theorem exec_replayRead_waits (settled : s.Settled) (owner : q.owner = .replayHeader n ∨ q.owner = .replayData n) (some : p.places ≠ [])
    (waits : ∀ x ∈ p.noted q n (if r.status = .ok then .ok r.data else .error), x.seq = p.cursor →
      x.writing = true ∨ x.header = .outstanding ∨ x.data = .outstanding) :
    exec (.replayReadResponse r) s = .next { s.taking r.tag with
      replay := Option.some { p with places := p.noted q n (if r.status = .ok then .ok r.data else .error) } } := by
  have places : p.noted q n (if r.status = .ok then .ok r.data else .error) ≠ [] := fun none =>
    some (List.length_eq_zero_iff.mp ((noted_length ..).symm.trans (congrArg List.length none)))
  have still : State.goOnReplay { s.taking r.tag with
      replay := Option.some { p with places := p.noted q n (if r.status = .ok then .ok r.data else .error) } } = _ :=
    goOnReplay_waits rfl places waits
  rw [exec_replayRead hr issued rolling unit owner, still]
  exact congrArg _ (finish_rolling settled rfl rolling)

/-- The restoring write of the seq whose reads have returned (R148, R149; log 3). -/
theorem exec_replayRead_restores (settled : s.Settled) (owner : q.owner = .replayHeader n ∨ q.owner = .replayData n)
    {before after : List ReplayPlace} {x : ReplayPlace}
    (here : Replay.At { p with places := p.noted q n (if r.status = .ok then .ok r.data else .error) } before after x)
    (full : p.places.length ≤ 8) {h d : Line} (header : x.header = .ok h) (data : x.data = .ok d)
    (valid : recordValid h d x.seq s.eng.epoch = true) (change : lineField h 0 1 = 2) :
    exec (.replayReadResponse r) s = .next (if s.issuesAtOnce then
        ((s.taking r.tag).restoring p before after x h d (x.seq - 1)).goOnReplay.finish
      else (s.taking r.tag).restoring p before after x h d p.cursor) := by
  have goes := goOnReplay_restores (s := { s.taking r.tag with
      replay := some { p with places := p.noted q n (if r.status = .ok then .ok r.data else .error) } }) rfl here
    ((noted_length ..).trans_le full) header data valid change
  rw [exec_replayRead hr issued rolling unit owner, goes]
  show Host.Outcome.next (State.finish (if s.issuesAtOnce = true then _ else _)) = _
  split
  · rfl
  · exact congrArg _ (finish_rolling settled rfl rolling)

/-- A slot dropped: the freed place takes the next seq, and settling goes on (R148). -/
theorem exec_replayRead_drops (owner : q.owner = .replayHeader n ∨ q.owner = .replayData n)
    {before after : List ReplayPlace} {x : ReplayPlace} {fault : Nat}
    (here : Replay.At { p with places := p.noted q n (if r.status = .ok then .ok r.data else .error) } before after x)
    (begun : p.begun = true) (full : p.places.length ≤ 8) (drop : x.Dropped x.seq s.eng.epoch fault) :
    exec (.replayReadResponse r) s = .next
      ((s.taking r.tag).replayReads (p.dropping (before ++ after) x.seq fault)).goOnReplay.finish := by
  have goes := goOnReplay_drops (s := { s.taking r.tag with
      replay := some { p with places := p.noted q n (if r.status = .ok then .ok r.data else .error) } }) rfl here begun
    ((noted_length ..).trans_le full) drop
  rw [exec_replayRead hr issued rolling unit owner, goes]
  rfl

end

/-- A unit that reads one slot more while its cursor waits above the target leaves the event at that. -/
theorem finish_replayReads {s f : State} {k : Replay} (settled : s.Settled) (hold : f.hold = s.hold) (rolling : f.eng.state = .rolling)
    (more : k.target < k.cursor)
    (waits : ∀ x ∈ k.places, x.seq = k.cursor → x.writing = true ∨ x.header = .outstanding ∨ x.data = .outstanding) :
    (f.replayReads k).goOnReplay.finish = f.replayReads k := by
  obtain ⟨eng, same, -⟩ := replayReads_frame f k
  rw [replayReads_goOn_waits more waits]
  exact finish_rolling settled (same.trans hold) (by rw [eng]; exact rolling)

theorem replayReads_of_read {s : State} {k : Replay} (read : k.readCursor ≤ k.target) :
    s.replayReads k = { s with replay := some k } := by
  rw [State.replayReads, if_neg (Nat.not_lt.mpr read)]

/-- The response that settles the last seq ends the rollback, as ROLLBACK_END does (R152; log 2). -/
theorem finish_replayReads_last {s f : State} {k : Replay} (hr : f.rstn = true) (event : f.eventNo = s.eventNo + 1)
    (rolling : f.eng.state = .rolling) (begun : k.begun = true) (read : k.readCursor ≤ k.target) (last : k.cursor = k.target)
    (none : k.places = []) :
    (.next (f.replayReads k).goOnReplay.finish : Host.Outcome State Fault Refusal) =
      exec .rollbackEnd { f with replay := some k, eventNo := s.eventNo } := by
  have again : State.nextEvent { f with replay := some k, eventNo := s.eventNo } = { f with replay := some k } :=
    nextEvent_again (t := { f with replay := some k }) event
  have goes : State.goOnReplay { f with replay := some k } = _ :=
    goOnReplay_of_waiting rolling rfl begun (by simp [none])
  rw [replayReads_of_read read, goes, if_pos ⟨last, none⟩, exec_rollbackEnd (by exact hr) (by exact rolling) rfl begun last none, again]

end Sys2Proof.Machine
end


section
/-! SUPPORT. What the settling of a seq makes of the scan (R160, R161; log 23). -/

namespace Sys2Proof.Machine

/-! ## A record as it is read -/

/-- The slot's two lines hold an intact record of the epoch (R6). -/
def IntactRecord (h d : Line) (e : Epoch) : Prop :=
  (lineField h 0 1 = 1 ∨ lineField h 0 1 = 2 ∨ lineField h 0 1 = 3) ∧ lineField h 4 4 = e.toNat ∧
    (recordCheck (lineField h 0 1) h d).toNat = lineField h 60 4

theorem recordKindOfCode_isSome (n : Nat) : (recordKindOfCode n).isSome = true ↔ n = 1 ∨ n = 2 ∨ n = 3 := by
  unfold recordKindOfCode
  split
  · simp
  · simp
  · simp
  · rename_i one two three
    exact iff_of_false nofun fun h => h.elim one fun h => h.elim two three

theorem readEpoch_eq_iff (h : Line) (e : Epoch) : readEpoch h = e ↔ lineField h 4 4 = e.toNat := by
  rw [← BitVec.toNat_inj, readEpoch, BitVec.toNat_ofNat, Nat.mod_eq_of_lt (lineField_lt h 4 4)]

theorem recordIntact_iff (h d : Line) (e : Epoch) : recordIntact h d e = true ↔ IntactRecord h d e := by
  simp only [recordIntact, Bool.and_eq_true, recordKindOfCode_isSome, decide_eq_true_eq, readEpoch_eq_iff, and_assoc]
  exact Iff.rfl

/-- The chain test of the scan (R161). -/
def Scan.ChainedTo (c : Scan) (h : Line) (q : Nat) : Prop :=
  if lineField h 0 1 = 2 then (match c.runStart with
    | some b => lineField h 28 8 = b
    | none => lineField h 28 8 < c.startSeq)
  else lineField h 28 8 = q

theorem chained_iff (c : Scan) (h : Line) (q : Nat) : c.chained h q = true ↔ c.ChainedTo h q := by
  rw [Scan.chained, Scan.ChainedTo]
  by_cases change : lineField h 0 1 = 2
  · rw [if_pos change, if_pos (show readKind h = RecordKind.change.code from change)]
    cases c.runStart with
    | none => exact decide_eq_true_iff
    | some b => exact decide_eq_true_iff
  · rw [if_neg change, if_neg (show ¬ readKind h = RecordKind.change.code from change)]
    exact decide_eq_true_iff

theorem accepts_iff (c : Scan) (h d : Line) (q : Nat) : c.accepts h d q = true ↔
    IntactRecord h d c.epoch ∧ lineField h 8 8 = q ∧ (lineField h 0 1 = 1 → q = 0) ∧ c.ChainedTo h q := by
  simp only [Scan.accepts, recordValid, Bool.and_eq_true, Bool.or_eq_true, decide_eq_true_eq, recordIntact_iff, chained_iff, and_assoc]
  exact and_congr Iff.rfl (and_congr Iff.rfl (and_congr (imp_iff_not_or (a := lineField h 0 1 = 1)).symm Iff.rfl))

/-! ## The seek -/

/-- The place holds a record of the epoch with a later seq (R160). -/
def LaterRecord (x : ScanPlace) (e : Epoch) : Prop :=
  ∃ h d, x.header = .ok h ∧ x.data = .ok d ∧ IntactRecord h d e ∧ x.seq < lineField h 8 8

theorem seekAdvance_later {x : ScanPlace} {e : Epoch} {h d : Line} (header : x.header = .ok h) (data : x.data = .ok d)
    (intact : IntactRecord h d e) (later : x.seq < lineField h 8 8) (capacity : Nat) :
    seekAdvance x e capacity = some (max (x.seq + 1) (lineField h 8 8 + 1 - capacity)) := by
  rw [seekAdvance, header, data]
  exact if_pos ⟨(recordIntact_iff h d e).mpr intact, later⟩

theorem seekAdvance_none {x : ScanPlace} {e : Epoch} (other : ¬ LaterRecord x e) (capacity : Nat) : seekAdvance x e capacity = none := by
  unfold seekAdvance
  split
  · rename_i h d header data
    exact if_neg fun later => other ⟨h, d, header, data, (recordIntact_iff h d e).mp later.1, later.2⟩
  all_goals rfl

/-- Unless the seek advances, the place is judged in phase RUN (R161). -/
theorem settle_judges {c : Scan} {x : ScanPlace} (other : ¬ (c.phase = .seek ∧ LaterRecord x c.epoch)) (capacity : Nat) :
    c.settle x capacity = { c with phase := .run }.judge x capacity := by
  unfold Scan.settle
  split
  · rename_i run
    rw [← run]
  · rename_i seek
    rw [seekAdvance_none (fun later => other ⟨seek, later⟩)]

theorem settle_seeks {c : Scan} {x : ScanPlace} {h d : Line} (seek : c.phase = .seek) (header : x.header = .ok h) (data : x.data = .ok d)
    (intact : IntactRecord h d c.epoch) (later : x.seq < lineField h 8 8) (capacity : Nat) :
    c.settle x capacity = c.seekTo (max (x.seq + 1) (lineField h 8 8 + 1 - capacity)) := by
  rw [Scan.settle, seek]
  dsimp only
  rw [seekAdvance_later header data intact later]

/-! ## The run -/

/-- The record at the scan cursor is accepted into the run (R161). -/
def Scan.AcceptedAt (c : Scan) (x : ScanPlace) (h d : Line) : Prop :=
  x.header = .ok h ∧ x.data = .ok d ∧ IntactRecord h d c.epoch ∧ lineField h 8 8 = x.seq ∧ (lineField h 0 1 = 1 → x.seq = 0) ∧
    c.ChainedTo h x.seq

theorem judge_accepted {c : Scan} {x : ScanPlace} {h d : Line} (accepted : c.AcceptedAt x h d) (capacity : Nat) :
    c.judge x capacity = (c.take h x.seq).advance x.seq capacity := by
  obtain ⟨header, data, valid⟩ := accepted
  rw [Scan.judge, header, data]
  exact if_pos ((accepts_iff c h d x.seq).mpr valid)

theorem judge_refused {c : Scan} {x : ScanPlace} (refused : ∀ h d, ¬ c.AcceptedAt x h d) (capacity : Nat) :
    c.judge x capacity = { c with stopped := true } := by
  unfold Scan.judge
  split
  · rename_i h d header data
    exact if_neg fun accepts => refused h d ⟨header, data, (accepts_iff c h d x.seq).mp accepts⟩
  all_goals rfl

section
variable {c : Scan} {h : Line} {q : Nat}

theorem take_present (change : lineField h 0 1 = 2) (present : ∃ e ∈ c.table.entries, e.line = .ofNat 40 (lineField h 16 5)) :
    c.take h q = c := by
  rw [Scan.take, if_pos (show readKind h = RecordKind.change.code from change)]
  exact if_pos (lookup_present present)

theorem take_absent (change : lineField h 0 1 = 2) (absent : ∀ e ∈ c.table.entries, e.line ≠ .ofNat 40 (lineField h 16 5)) :
    c.take h q = { c with table := c.table.insert (.ofNat 40 (lineField h 16 5)) q, fullAt := if c.table.fills then q else c.fullAt } := by
  have none : (c.table.lookup (readLine h)).isSome = false := lookup_absent absent
  rw [Scan.take, if_pos (show readKind h = RecordKind.change.code from change), none]
  rfl

theorem insert_of_saturated {t : Touch} (full : t.saturated = true) (x : Addr) (q : Nat) : t.insert x q = t ∧ t.fills = false :=
  ⟨if_pos full, by rw [Touch.fills, full]; rfl⟩

theorem insert_of_room {t : Touch} (exact_ : t.saturated = false) (room : t.entries.length < 8192) (x : Addr) (q : Nat) :
    t.insert x q = { t with entries := t.entries ++ [{ line := x, seq := q }] } ∧ t.fills = false := by
  refine ⟨?_, ?_⟩
  · rw [Touch.insert, if_neg (by simp [exact_])]
    exact if_pos room
  · have low : ¬ Config.touchPlaces ≤ t.entries.length := Nat.not_le.mpr room
    simp [Touch.fills, low]

theorem insert_of_full {t : Touch} (exact_ : t.saturated = false) (full : 8192 ≤ t.entries.length) (x : Addr) (q : Nat) :
    t.insert x q = { t with saturated := true } ∧ t.fills = true := by
  refine ⟨?_, ?_⟩
  · rw [Touch.insert, if_neg (by simp [exact_])]
    exact if_neg (Nat.not_lt.mpr full)
  · rw [Touch.fills, exact_]
    exact decide_eq_true full

/-- The OPEN or MARK record that begins a segment (R161). -/
theorem take_entry (other : lineField h 0 1 ≠ 2) : c.take h q =
    { c.list { seq := q, tag := .ofNat 32 (lineField h 24 4), source := readSource h } with
      runStart := some q, table := { entries := [], saturated := false } } :=
  if_neg (show ¬ readKind h = RecordKind.change.code from other)

theorem list_room {e : Segment} (room : c.built.length < 16) : c.list e = { c with built := c.built ++ [e] } := by
  cases built : c.built with
  | nil => rw [Scan.list, built]; rfl
  | cons b bs =>
    rw [built] at room
    rw [Scan.list, built]
    exact if_pos room

theorem list_full {e b : Segment} {bs : List Segment} (built : c.built = b :: bs) (full : 16 ≤ c.built.length) :
    c.list e = { c with built := bs ++ [e], dropped := c.dropped + 1, newestDropped := b.seq } := by
  rw [built] at full
  rw [Scan.list, built]
  exact if_neg (Nat.not_lt.mpr full)

end

/-! ## The scan that a settling leaves -/

/-- Settling the place of a seq gives the scan that R160 and R161 name. -/
theorem settle_of_settlesTo {c k : Scan} {x : ScanPlace} {capacity : Nat} (going : c.stopped = false) (h : c.SettlesTo x capacity k) :
    c.settle x capacity = k := by
  have advance (u : Scan) (stop : u.stopped = false) : u.advance x.seq capacity = { u with
      cursor := x.seq + 1, places := u.places.filter fun y => y.seq ≠ x.seq, stopped := decide (u.startSeq + capacity ≤ x.seq + 1) } := by
    rw [Scan.advance, stop, Bool.false_or]
  have run {h d : Line} (other : ¬ (c.phase = .seek ∧ LaterRecord x c.epoch)) (accepted : c.AcceptedAt x h d) :
      c.settle x capacity = (({ c with phase := .run } : Scan).take h x.seq).advance x.seq capacity :=
    (settle_judges other capacity).trans (judge_accepted (c := { c with phase := .run }) accepted capacity)
  rcases h with ⟨h, d, ⟨seek, h', d', header', data', intact, later⟩, header, data, rfl⟩ | ⟨other, h, d, accepted, change, taken⟩ |
    ⟨other, h, d, accepted, entry, listed⟩ | ⟨other, refused, rfl⟩
  · obtain rfl : h' = h := by rw [header] at header'; cases header'; rfl
    obtain rfl : d' = d := by rw [data] at data'; cases data'; rfl
    rw [settle_seeks seek header data intact later, Scan.seekTo]
    refine congrArg (fun l => ({ c with startSeq := _, cursor := _, readCursor := _, places := l } : Scan)) (List.filter_congr fun y _ => ?_)
    rw [Bool.eq_iff_iff]
    simp [ScanPlace.reading, or_comm]
  · rw [run other accepted]
    rcases taken with ⟨present, rfl⟩ | ⟨absent, ⟨full, rfl⟩ | ⟨exact_, room, rfl⟩ | ⟨exact_, full, rfl⟩⟩
    · rw [take_present (c := { c with phase := .run }) change present, advance _ (by exact going)]
    · obtain ⟨same, fits⟩ := insert_of_saturated full (.ofNat 40 (lineField h 16 5)) x.seq
      rw [take_absent (c := { c with phase := .run }) change absent, same, fits, advance _ (by exact going)]
      rfl
    · obtain ⟨longer, fits⟩ := insert_of_room exact_ room (.ofNat 40 (lineField h 16 5)) x.seq
      rw [take_absent (c := { c with phase := .run }) change absent, longer, fits, advance _ (by exact going)]
      rfl
    · obtain ⟨lost, fills⟩ := insert_of_full exact_ full (.ofNat 40 (lineField h 16 5)) x.seq
      rw [take_absent (c := { c with phase := .run }) change absent, lost, fills, advance _ (by exact going)]
      rfl
  · rw [run other accepted, take_entry entry]
    rcases listed with ⟨room, rfl⟩ | ⟨b, bs, built, full, rfl⟩
    · rw [list_room (c := { c with phase := .run }) room, advance _ (by exact going)]
    · rw [list_full (c := { c with phase := .run }) built full, advance _ (by exact going)]
  · rw [settle_judges other]
    exact judge_refused (c := { c with phase := .run }) refused capacity

end Sys2Proof.Machine
end


section
/-! SUPPORT. The scan unit goes on, seq after seq, and its reads return (R160, R161, R162; log 44 and log 45). -/

namespace Sys2Proof.Machine

/-! ## Going on -/

theorem readScan_scanReads {s : State} {c : Scan} (unit : s.scan = some c) (going : c.stopped = false) (room : c.places.length < 8)
    (m : Nat) : State.readScan (m + 1) s = State.readScan m (s.scanReads c) :=
  readScan_of_room unit going room m

theorem scanDue_iff {s : State} {c : Scan} (scanning : s.eng.state = .scanning) (unit : s.scan = some c) :
    s.scanDue = true ↔ c.stopped = true ∧ ∀ x ∈ c.places, x.reading = false := by
  simp [State.scanDue, scanning, unit]

theorem settleScan_stopped {s : State} {c : Scan} (unit : s.scan = some c) (stopped : c.stopped = true) (n : Nat) :
    State.settleScan n s = s := by
  cases n with
  | zero => rfl
  | succ n =>
    rw [State.settleScan, unit]
    exact if_pos stopped

/-- Settling waits for the reads of the seq at the scan cursor (R160). -/
theorem settleScan_waits {s : State} {c : Scan} (unit : s.scan = some c) (waits : ∀ x ∈ c.places, x.seq = c.cursor → x.reading = true)
    (n : Nat) : State.settleScan n s = s := by
  cases n with
  | zero => rfl
  | succ n =>
    have none : (c.places.find? fun x => decide (x.seq = c.cursor) && !x.reading) = .none :=
      List.find?_eq_none.mpr fun x hx here => by
        simp only [Bool.and_eq_true, decide_eq_true_eq, Bool.not_eq_true'] at here
        obtain ⟨seq, idle⟩ := here
        exact Bool.false_ne_true (idle.symm.trans (waits x hx seq))
    rw [State.settleScan, unit]
    dsimp only
    rw [none, ite_self]

theorem goOnScan_stopped {s : State} {c : Scan} (scanning : s.eng.state = .scanning) (unit : s.scan = some c) (stopped : c.stopped = true) :
    s.goOnScan = if ∃ x ∈ c.places, x.reading = true then s else s.endScan := by
  rw [State.goOnScan, settleScan_stopped unit stopped, State.checkScan]
  by_cases reading : ∃ x ∈ c.places, x.reading = true
  · obtain ⟨x, hx, busy⟩ := reading
    have early : ¬ s.scanDue = true := fun due => Bool.false_ne_true ((((scanDue_iff scanning unit).mp due).2 x hx).symm.trans busy)
    rw [if_neg early, if_pos ⟨x, hx, busy⟩]
  · have due : s.scanDue = true := (scanDue_iff scanning unit).mpr ⟨stopped, by simpa using reading⟩
    rw [if_pos due, if_neg reading]

theorem goOnScan_waits {s : State} {c : Scan} (scanning : s.eng.state = .scanning) (unit : s.scan = some c) (going : c.stopped = false)
    (waits : ∀ x ∈ c.places, x.seq = c.cursor → x.reading = true) : s.goOnScan = s := by
  rw [State.goOnScan, settleScan_waits unit waits]
  exact if_neg fun due => Bool.false_ne_true (going.symm.trans ((scanDue_iff scanning unit).mp due).1)

/-- The seq at the scan cursor is settled, the freed places are taken anew, and settling goes on (R160, R161; log 45). -/
theorem goOnScan_settles {s : State} {c k : Scan} {x : ScanPlace} (unit : s.scan = some c) (going : c.stopped = false)
    (full : c.places.length ≤ 8) (hx : x ∈ c.places) (seq : x.seq = c.cursor) (idle : x.reading = false)
    (alone : ∀ y ∈ c.places, y.seq = c.cursor → y = x) (settles : c.SettlesTo x (2 ^ s.layout.order) k) :
    s.goOnScan = (State.readScan 8 { s with scan := some k }).goOnScan := by
  have found : (c.places.find? fun x => decide (x.seq = c.cursor) && !x.reading) = some x := by
    have some : (c.places.find? fun x => decide (x.seq = c.cursor) && !x.reading).isSome = true :=
      List.find?_isSome.mpr ⟨x, hx, by simp [seq, idle]⟩
    obtain ⟨y, found⟩ := Option.isSome_iff_exists.mp some
    have here := List.find?_some found
    simp only [Bool.and_eq_true, decide_eq_true_eq] at here
    rw [found, alone y (List.mem_of_find?_eq_some found) here.1]
  have step (m : Nat) : State.settleScan (m + 1) s = State.settleScan m (State.readScan 8 { s with scan := some k }) := by
    rw [State.settleScan, unit]
    dsimp only
    rw [going, found]
    dsimp only
    rw [show s.layout.capacity = 2 ^ s.layout.order from rfl, settle_of_settlesTo going settles]
    rfl
  have count : k.stopped = false → k.returned ≤ 14 := fun still => by
    rcases settle_returned hx idle (2 ^ s.layout.order) with stopped | fewer
    · rw [settle_of_settlesTo going settles, still] at stopped
      cases stopped
    · rw [settle_of_settlesTo going settles] at fewer
      have le := List.countP_le_length (p := fun x : ScanPlace => !x.reading) (l := c.places)
      have : c.returned ≤ 8 := le.trans full
      omega
  have enough : State.settleScan 15 (State.readScan 8 { s with scan := some k }) =
      State.settleScan 16 (State.readScan 8 { s with scan := some k }) :=
    settleScan_enough 14 _ fun u hu still => by
      obtain ⟨k', hk, returned, stopped⟩ := readScan_returned 8 { s with scan := some k } (c := k) rfl
      rw [hu] at hk
      cases hk
      rw [returned]
      exact count (stopped ▸ still)
  show (State.settleScan 16 s).checkScan = (State.settleScan 16 _).checkScan
  rw [step 15, enough]

/-! ## A settling with every other read outstanding -/

/-- The settled seq's place is freed, or the run has stopped (R160, R161). -/
theorem settlesTo_places {c k : Scan} {x : ScanPlace} {before after : List ScanPlace} {capacity : Nat}
    (places : c.places = before ++ x :: after) (idle : x.reading = false)
    (others : ∀ y ∈ before ++ after, y.seq ≠ x.seq ∧ y.reading = true) (h : c.SettlesTo x capacity k) :
    k.places = before ++ after ∨ (k.stopped = true ∧ k.places = c.places) := by
  have filtered (keep : ScanPlace → Bool) (gone : keep x = false) (kept : ∀ y ∈ before ++ after, keep y = true) :
      c.places.filter keep = before ++ after := by
    rw [places, List.filter_append, List.filter_cons_of_neg (by simp [gone]), ← List.filter_append, List.filter_eq_self.mpr kept]
  have past : (c.places.filter fun y => y.seq ≠ x.seq) = before ++ after :=
    filtered _ (by simp) fun y hy => by simpa using (others y hy).1
  have outstanding (y : ScanPlace) : y.reading = true ↔ y.header = .outstanding ∨ y.data = .outstanding := by
    simp [ScanPlace.reading]
  rcases h with ⟨h, d, -, -, -, rfl⟩ | ⟨-, h, d, -, -, taken⟩ | ⟨-, h, d, -, -, listed⟩ | ⟨-, -, rfl⟩
  · refine .inl (filtered _ ?_ fun y hy => decide_eq_true (.inr ((outstanding y).mp (others y hy).2)))
    refine decide_eq_false fun kept => ?_
    rcases kept with beyond | reading
    · omega
    · exact Bool.false_ne_true (idle.symm.trans ((outstanding x).mpr reading))
  · rcases taken with ⟨-, rfl⟩ | ⟨-, ⟨-, rfl⟩ | ⟨-, -, rfl⟩ | ⟨-, -, rfl⟩⟩ <;> exact .inl past
  · rcases listed with ⟨-, rfl⟩ | ⟨b, bs, -, -, rfl⟩ <;> exact .inl past
  · exact .inr ⟨rfl, rfl⟩

/-- With all eight places taken and the reads of the others outstanding, the settling of a seq stops the run or reads one slot more. -/
theorem goOnScan_settles_one {s : State} {c k : Scan} {x : ScanPlace} {before after : List ScanPlace} (scanning : s.eng.state = .scanning)
    (unit : s.scan = some c) (going : c.stopped = false) (full : c.places.length = 8) (places : c.places = before ++ x :: after)
    (seq : x.seq = c.cursor) (idle : x.reading = false) (others : ∀ y ∈ before ++ after, y.seq ≠ c.cursor ∧ y.reading = true)
    (settles : c.SettlesTo x (2 ^ s.layout.order) k) :
    s.goOnScan = if k.stopped then { s with scan := some k } else s.scanReads k := by
  have mem {y : ScanPlace} : y ∈ c.places ↔ y = x ∨ y ∈ before ++ after := by
    rw [places, List.mem_append, List.mem_cons, List.mem_append, or_left_comm]
  have alone : ∀ y ∈ c.places, y.seq = c.cursor → y = x := fun y hy here =>
    (mem.mp hy).resolve_right fun other => (others y other).1 here
  have rest : (before ++ after).length = 7 := by
    rw [places, List.length_append, List.length_cons] at full
    rw [List.length_append]
    omega
  have kept := settlesTo_places places idle (by rwa [seq]) settles
  rw [goOnScan_settles unit going full.le (mem.mpr (.inl rfl)) seq idle alone settles]
  cases stopped : k.stopped
  · have left := kept.resolve_right fun h => Bool.false_ne_true (stopped.symm.trans h.1)
    have room : k.places.length = 7 := by rw [left, rest]
    have reads : State.readScan 8 { s with scan := some k } = s.scanReads k := by
      have one := readScan_scanReads (s := { s with scan := some k }) rfl stopped (by omega) 7
      have done : State.readScan 7 (State.scanReads { s with scan := some k } k) = State.scanReads { s with scan := some k } k :=
        readScan_of_done (c := { k with places := k.places ++ [freshScanPlace k.readCursor], readCursor := k.readCursor + 1 }) rfl
          (.inr (by simp [room])) 7
      exact one.trans done
    have waits : ∀ y ∈ k.places ++ [freshScanPlace k.readCursor], y.reading = true := fun y hy => by
      rcases List.mem_append.mp hy with old | new
      · exact (others y (left ▸ old)).2
      · rw [List.mem_singleton.mp new]; rfl
    rw [reads, if_neg Bool.false_ne_true]
    exact goOnScan_waits (c := { k with places := k.places ++ [freshScanPlace k.readCursor], readCursor := k.readCursor + 1 })
      scanning rfl stopped fun y hy _ => waits y hy
  · have reading : ∃ y ∈ k.places, y.reading = true := by
      obtain ⟨y, ys, list⟩ := List.exists_cons_of_length_eq_add_one rest
      have hy : y ∈ before ++ after := by rw [list]; exact List.mem_cons_self
      refine ⟨y, ?_, (others y hy).2⟩
      rcases kept with left | ⟨-, same⟩
      · rw [left]; exact hy
      · rw [same]; exact mem.mpr (.inr hy)
    have done : State.readScan 8 { s with scan := some k } = { s with scan := some k } := readScan_of_done rfl (.inl stopped) 8
    rw [done, goOnScan_stopped (by exact scanning) rfl stopped, if_pos reading, if_pos rfl]

end Sys2Proof.Machine
end


section
/-! SUPPORT. O53: the responses of the scan unit, and the statement's parts (R146 to R149, R152, R159 to R162). -/

namespace Sys2Proof.Machine

/-! ## The scan's reads -/

/-- The places once a read of the seq n has returned (R160). -/
def Scan.noted (c : Scan) (q : DownRequest) (n : Nat) (read : ReadState) : List ScanPlace :=
  c.places.map fun x => if x.seq = n then
    (if q.owner = .scanHeader n then { x with header := read } else { x with data := read }) else x

/-- The state in which the scan unit holds k after a response. -/
def State.scanHolds (f : State) (k : Scan) : State := { f with scan := some k }

theorem finish_scanning {s t : State} (settled : s.Settled) (hold : t.hold = s.hold) (scanning : t.eng.state = .scanning) :
    t.finish = t :=
  finish_of_same settled hold (by simp [State.quiesceDue, scanning]) (by simp [State.resetDue, scanning])

section
variable {s : State} {r : MemResponse} {q : DownRequest} {n : Nat} {c : Scan} (hr : s.rstn = true)
  (issued : s.down.issuedWith r.tag = some q) (scanning : s.eng.state = .scanning) (unit : s.scan = some c)
  (owner : q.owner = .scanHeader n ∨ q.owner = .scanData n)
include hr issued scanning unit owner

/-- A read of the scan unit has returned: a place below the cursor is freed once both its reads have, and the unit goes on (R160). -/
theorem exec_scanRead : exec (.scanReadResponse r) s = .next (State.readScan 8 ((s.taking r.tag).scanHolds { c with
    places := (c.noted q n (if r.status = .ok then .ok r.data else .error)).filter fun x =>
      c.cursor ≤ x.seq ∨ x.header = .outstanding ∨ x.data = .outstanding })).goOnScan.finish := by
  refine exec_delivered rfl hr issued ?_
  have unit' : (s.taking r.tag).scan = some c := unit
  have kept : (fun x : ScanPlace => x.reading || decide (c.cursor ≤ x.seq)) =
      fun x => decide (c.cursor ≤ x.seq ∨ x.header = .outstanding ∨ x.data = .outstanding) := funext fun x => by
    rw [Bool.eq_iff_iff]
    simp [ScanPlace.reading, or_comm]
  have returned (note : ScanPlace → ScanPlace) : (s.taking r.tag).scanReturned n note =
      (State.readScan 8 ((s.taking r.tag).scanHolds { c with
        places := (c.places.map fun x => if x.seq = n then note x else x).filter fun x =>
          c.cursor ≤ x.seq ∨ x.header = .outstanding ∨ x.data = .outstanding })).goOnScan := by
    rw [State.scanReturned, unit']
    dsimp only
    rw [kept]
    exact if_pos scanning
  rw [← responseRead_eq, Scan.noted]
  rcases owner with header | data
  · have delivered : (s.taking r.tag).deliver q r = (s.taking r.tag).scanReturned n fun x =>
        { x with header := responseRead r } := by rw [State.deliver, header]
    rw [delivered, returned]
    simp only [header, if_true]
  · have delivered : (s.taking r.tag).deliver q r = (s.taking r.tag).scanReturned n fun x =>
        { x with data := responseRead r } := by rw [State.deliver, data]
    rw [delivered, returned]
    simp only [data, reduceCtorEq, if_false]

/-- With no place to free the read is noted, and the unit goes on (R160). -/
theorem exec_scanRead_keeps (full : c.stopped = true ∨ c.places.length = 8)
    (kept : ∀ x ∈ c.noted q n (if r.status = .ok then .ok r.data else .error), c.cursor ≤ x.seq ∨ x.reading = true) :
    exec (.scanReadResponse r) s = .next ((s.taking r.tag).scanHolds { c with
      places := c.noted q n (if r.status = .ok then .ok r.data else .error) }).goOnScan.finish := by
  have all : ((c.noted q n (if r.status = .ok then .ok r.data else .error)).filter fun x =>
      decide (c.cursor ≤ x.seq ∨ x.header = .outstanding ∨ x.data = .outstanding)) =
      c.noted q n (if r.status = .ok then .ok r.data else .error) := List.filter_eq_self.mpr fun x hx => by
    simpa [ScanPlace.reading] using kept x hx
  have done : State.readScan 8 ((s.taking r.tag).scanHolds { c with
      places := c.noted q n (if r.status = .ok then .ok r.data else .error) }) = _ :=
    readScan_of_done (c := { c with places := c.noted q n (if r.status = .ok then .ok r.data else .error) }) rfl
      (full.imp_right fun h => ((List.length_map _).trans h).ge) 8
  rw [exec_scanRead hr issued scanning unit owner, all, done]

end

/-! ## The obligation -/

/-- The conditions that hold of a response's places, as they stand at the cursor. -/
theorem Replay.at_of {p : Replay} {before after : List ReplayPlace} {x : ReplayPlace} {n : Nat} {l : List ReplayPlace}
    (places : l = before ++ x :: after) (seq : x.seq = n) (cursor : p.cursor = n) (idle : x.writing = false)
    (others : ∀ y ∈ before ++ after, y.seq ≠ n) : Replay.At { p with places := l } before after x where
  places := places
  seq := seq.trans cursor.symm
  idle := idle
  others y hy := by rw [show ({ p with places := l } : Replay).cursor = n from cursor]; exact others y hy

/-- Settles O53: the replay unit's responses, the scan unit's, and how each unit goes on. -/
theorem replayAndScanResponses : Obligations.ReplayAndScanResponses := by
  refine ⟨fun r s q n hr settled issued => ?_, fun s p bounded rolling unit begun => ?_, fun s c unit => ?_,
    fun s c bounded scanning unit => ?_⟩
  · intro read f
    refine ⟨fun p rolling unit begun => ?_, fun c scanning unit owner => ?_⟩
    · intro noted going
      refine ⟨fun owner => ⟨exec_replayRead hr issued rolling unit owner, exec_replayRead_waits hr issued rolling unit settled owner,
        fun before after x places seq cursor idle others => ⟨fun h d header data valid change full => ?_, fun fault drop => ?_⟩⟩,
        fun owner => ?_⟩
      · have here := Replay.at_of places seq cursor idle others
        subst seq
        exact exec_replayRead_restores hr issued rolling unit settled owner here full header data valid change
      · have here := Replay.at_of places seq cursor idle others
        have count : p.places.length = (before ++ after).length + 1 := (noted_length p q n read).symm.trans here.length
        subst seq
        intro k
        refine ⟨fun above full waits => ?_, fun last allRead none none' => ?_⟩
        · rw [exec_replayRead_drops hr issued rolling unit owner here begun full drop]
          exact congrArg _ (finish_replayReads settled rfl rolling (Nat.lt_sub_of_add_lt above) waits)
        · have empty : before ++ after = [] := by rw [none, none']; rfl
          rw [empty] at count
          rw [exec_replayRead_drops hr issued rolling unit owner here begun (count.trans_le (by decide)) drop]
          exact finish_replayReads_last hr rfl rolling begun allRead.le (Nat.sub_eq_of_eq_add last) empty
      · intro k
        refine ⟨fun room => exec_restoringWrite hr issued rolling unit owner begun (.inl room), fun room more waits => ?_,
          fun last allRead some waits => ?_, fun last allRead none => ?_⟩
        · rw [exec_restoringWrite hr issued rolling unit owner begun (.inl room)]
          exact congrArg _ (finish_replayReads settled rfl rolling more waits)
        · have still : State.goOnReplay (going k) = going k := goOnReplay_waits rfl some fun x hx seq => absurd seq (waits x hx)
          rw [exec_restoringWrite hr issued rolling unit owner begun (.inr allRead.le), replayReads_of_read (k := p.restored n r) allRead.le]
          exact congrArg _ ((congrArg State.finish still).trans (finish_rolling settled rfl rolling))
        · rw [exec_restoringWrite hr issued rolling unit owner begun (.inr allRead.le)]
          exact finish_replayReads_last hr rfl rolling begun allRead.le last none
    · intro noted going
      have quiet {t : State} (result : State.goOnScan (going { c with places := noted }) = t) (hold : t.hold = s.hold)
          (still : t.eng.state = .scanning) (full : c.stopped = true ∨ c.places.length = 8)
          (kept : ∀ x ∈ noted, c.cursor ≤ x.seq ∨ x.reading = true) : exec (.scanReadResponse r) s = .next t :=
        (exec_scanRead_keeps hr issued scanning unit owner full kept).trans
          (congrArg _ ((congrArg State.finish result).trans (finish_scanning settled hold still)))
      have waitsFor := goOnScan_waits (s := going { c with places := noted }) (c := { c with places := noted }) scanning rfl
      have ends := goOnScan_stopped (s := going { c with places := noted }) (c := { c with places := noted }) scanning rfl
      refine ⟨exec_scanRead hr issued scanning unit owner, fun run full kept waits => ?_, fun stopped kept reading => ?_,
        fun stopped above idle => ?_, fun before after x k places seq cursor run full idle others settles => ?_⟩
      · exact quiet (waitsFor run waits) rfl scanning (.inr full) kept
      · exact quiet ((ends stopped).trans (if_pos reading)) rfl scanning (.inl stopped) kept
      · have finished : State.goOnScan (going { c with places := noted }) = State.endScan (going { c with places := noted }) :=
          (ends stopped).trans (if_neg fun ⟨x, hx, busy⟩ =>
            Bool.false_ne_true ((idle x hx).symm.trans busy))
        have ended := exec_scanEnd (s := { going { c with places := noted } with eventNo := s.eventNo }) (c := { c with places := noted })
          hr scanning rfl stopped idle
        rw [exec_scanRead_keeps hr issued scanning unit owner (.inl stopped) fun x hx => .inl (above x hx), ended]
        exact congrArg _ (congrArg State.finish finished)
      · have one := goOnScan_settles_one (s := going { c with places := noted }) scanning rfl run
          ((List.length_map _).trans full) places (seq.trans cursor.symm) idle (by simpa [cursor] using others) settles
        refine quiet one ?_ ?_ (.inr full) fun y hy => ?_
        · split <;> rfl
        · split <;> exact scanning
        · rw [places, List.mem_append, List.mem_cons] at hy
          rcases hy with ahead | rfl | behind
          · exact .inr (others y (List.mem_append_left after ahead)).2
          · exact .inl (cursor.trans seq.symm).le
          · exact .inr (others y (List.mem_append_right before behind)).2
  · have full := bounded.replay p unit
    refine ⟨goOnReplay_of_waiting rolling unit begun, fun before after x places seq idle others => ⟨fun h d header data valid change => ?_,
      fun fault drop => ?_⟩⟩
    · exact goOnReplay_restores unit ⟨places, seq, idle, others⟩ full header data valid change
    · exact goOnReplay_drops unit ⟨places, seq, idle, others⟩ begun full drop
  · exact ⟨fun m run room => readScan_scanReads unit run room m, fun m done => readScan_of_done unit done m⟩
  · exact ⟨goOnScan_stopped scanning unit, goOnScan_waits scanning unit, fun x k run hx seq idle alone settles =>
      goOnScan_settles unit run (bounded.scan c unit).places hx seq idle alone settles⟩

end Sys2Proof.Machine
end
